-- ==== Sys2Proof/Word.lean ====
section
/-!
DEFINITION. The word types of the model and its association map. Bit vectors stand for what the spec treats as
bits; counts, indexes and screed ticks that are only counted are natural numbers.
-/

namespace Sys2Proof

/-- Eight bits: the smallest addressable unit (R6). -/
abbrev Byte := BitVec 8

/-- One 32-bit word: an S register, a lane, an accumulator, a semaphore. -/
abbrev Word := BitVec 32

/-- One 64-bit word: a screed tick, a global address, a stream instruction. -/
abbrev DWord := BitVec 64

/-- A finite map by natural-number key, kept in rising key order: sparse state that reads a default elsewhere. -/
abbrev AMap (α : Type) := List (Nat × α)

end Sys2Proof
end

