-- ==== Sys2Proof/Syntax.lean ====
section
/-!
DEFINITION. The commands that act on the device: one constructor per row of spec/opcode_table.json. Operand
structures hold what an outside party brings with a command: a control-port frame, a fabric header, the outcome of
a cryptographic check, what a sensor or a training found. A bundle operation names only its core: the bundle comes
from the core's own bundle memory.
-/

namespace Sys2Proof

/-- What the security block finds about a LOAD frame (R395, R396); log entry 6. plain is the decrypted body that
the frame carries; digestOk is the comparison of the running digest with DIGEST at the last segment. -/
structure ImageVerdict where
  sigOk : Bool
  wrapOk : Bool
  tagsOk : Bool
  digestOk : Bool
  plain : List Byte
deriving DecidableEq, Repr

/-- What the ECC of a memory controller finds in the line that it reads (R297, R301); lo and n give the bytes of the
line that the failing ECC words hold. -/
inductive EccFind where
  | clean
  | corrected
  | uncorrectable (lo n : Nat)
deriving DecidableEq, Repr

/-- A request frame of the control port (Table 18-1): header fields, payload, and what the link and the session
check find. LENGTH is the payload's length; rsv is true when a reserved field, or a field that must be 0 in this
frame, is not 0; ecc is what the memory controllers find in the lines that the command touches, in address order
(none listed: clean). -/
structure Frame where
  first : Bool
  last : Bool
  auth : Bool
  rsv : Bool
  tag : Nat
  arg0 : Nat
  arg1 : Nat
  counter : Nat
  payload : List Byte
  crcOk : Bool
  tagOk : Bool
  image : ImageVerdict
  ecc : List EccFind
deriving DecidableEq, Repr

/-- A write of SEC_SESSION: whether the wrap opens under DTK (R398). -/
structure SessionIn where
  opens : Bool
  wrap : BitVec 904
deriving DecidableEq, Repr

/-- A write of SEC_OWNER_IN: the record of Table 17-6 and whether SIG verifies under the current owner key. -/
structure OwnerIn where
  record : BitVec 1088
  sigOk : Bool
deriving DecidableEq, Repr

/-- What a march found (R384): physical cores by bay and number, HBM pages and DDR5 lines by address. -/
structure MarchFindings where
  cores : List (Nat × Nat)
  rows : List (Nat × Nat × Nat × Nat)
  hbmPages : List Nat
  ddrLines : List Nat
deriving DecidableEq, Repr

/-- Where a landing row comes from (R171, R242): a line of one of the core's engines, or the landing queue. -/
inductive LandSrc where
  | line (tag : Nat)
  | ext
deriving DecidableEq, Repr

/-- A soft error that strikes a store: 1 scratchpad row, 2 weight-stage column, 3 hub storage (index: the structure, as
BootEnv.hubUe numbers it); the 64-bit group; whether two bits of it flip (R85, R159, R373). -/
structure Upset where
  core : Nat
  unit : Nat
  index : Nat
  group : Nat
  double : Bool
deriving DecidableEq, Repr

/-- One cycle of a bay's clock (R362): which cores ask for which engine row accesses is the state's; upsets strike
in it, and the replica paths read a margin in ps (R360); others: margins of spines and of the hub (regions 32 to 36) in
cycles of theirs that end in it. -/
structure BayCycle where
  upsets : List Upset
  margin : Nat
  others : List (Nat × Nat)
deriving DecidableEq, Repr

/-- What the sensors read at a governor evaluation (R363, R366, R443, R445, R451): hotspots by region, none for a
sensor that gives no reading; mean input power in W; input voltage in 100 mV; coolant in and out in degrees; flow in
0.1 L/min; closed latches of the DDR5 sockets. -/
structure Sensors where
  hot : List (Option Nat)
  power : Nat
  vin : Nat
  tin : Nat
  tout : Nat
  flow : Nat
  latch : Nat
deriving DecidableEq, Repr

/-- A received heartbeat (R339), in units of 1/16 tk: t1, the echoed t3 and t4, and the part below one tick of the local
time at which it arrives. -/
structure HeartbeatIn where
  t1 : Nat
  frac : Nat
  t3 : Nat
  t4 : Nat
  echo : Bool
  locked : Bool
deriving DecidableEq, Repr

/-- What the FEC of a port has corrected on one lane (R327, R353): symbols, in so many codewords. -/
structure LaneFec where
  lane : Nat
  symbols : Nat
  codewords : Nat
deriving DecidableEq, Repr

/-- What a neighbour says of itself in IDENT (R331): identity digest, coordinate, port, generation. -/
structure NeighbourId where
  devid : BitVec 256
  coord : Nat
  port : Nat
  gen : Nat
deriving DecidableEq, Repr

/-- The header of a fabric transaction (R337) and the port it came on. -/
structure FabHeader where
  port : Nat
  src : Nat
  dst : Nat
  tag : Nat
  addr : Nat
  pid : Nat
  epoch : Nat
deriving DecidableEq, Repr

/-- One copy of a code image as the boot finds it (R392, R393). -/
structure CodeCopy where
  ok : Bool
  svn : Nat
  digest : BitVec 256
deriving DecidableEq, Repr

/-- One field patch record of the module flash: the 128 bytes of Table 16-6, little-endian (R375), and whether a power loss
tore it (R376). -/
structure PatchRec where
  w : BitVec 1024
  torn : Bool
deriving DecidableEq, Repr

/-- A DDR5 module (R300, R431, R446): socket, size as log2 of GiB, type (0 RDIMM, 1 3DS RDIMM, 2 MRDIMM), highest
rate in MT/s / 100, whether it trains. -/
structure DdrModule where
  ch : Nat
  size : Nat
  kind : Nat
  rate : Nat
  ok : Bool
deriving DecidableEq, Repr

/-- A port that the wiring manifest lists: class, cable length in metres, the neighbour's identity digest, coordinate, port
and generation (R329). -/
structure ManPort where
  port : Nat
  cls : Nat
  cable : Nat
  devid : BitVec 256
  coord : Nat
  nport : Nat
  gen : Nat
deriving DecidableEq, Repr

/-- The wiring manifest as the firmware finds it (R329, R330): whether it verifies; the identity digest and coordinate that
it gives this device; root, dimensions; the devices that are not FV3, with their generations; the listed ports; its
digest. -/
structure Manifest where
  ok : Bool
  devid : BitVec 256
  coord : Nat
  root : Nat
  dims : Nat
  gens : List (Nat × Nat)
  ports : List ManPort
  digest : BitVec 256
deriving DecidableEq, Repr

/-- What the module and its surroundings bring to a power-up (Table 19-1; log entry 7): rails, code copies, fuses
(bad cores by bay and number; repaired rows by bay, core and bank; the bytes that measurement 3 takes from them), field
records, serials of those that the power loss tore and of those whose page has no repair resource left in its stack, BIST
findings (bay and core; scratchpad rows as bay, core, bank and row; hub structure), bays whose crossing does not plumb, stacks
that do not train, DDR5 modules, the manifest, and the milliseconds that the boot takes. -/
structure BootEnv where
  railsOk : Bool
  primerA : CodeCopy
  primerB : CodeCopy
  fwA : CodeCopy
  fwB : CodeCopy
  factoryOut : List (Nat × Nat)
  factoryRows : List (Nat × Nat × Nat)
  fusePatch : List Byte
  records : List PatchRec
  torn : List Nat
  noSpare : List Nat
  bist : List (Nat × Nat)
  bistRows : List (Nat × Nat × Nat × Nat)
  hubUe : Option Nat
  plumbFail : List Nat
  hbmFail : List Nat
  ddr : List DdrModule
  manifest : Manifest
  ms : Nat
deriving DecidableEq, Repr

/-- The commands of spec/opcode_table.json. -/
inductive Instr where
  /-- `IDENT` (R410): Control-port command that returns the part number, serial, DEVID, coordinate, generation and SVNs. -/
  | ident (f : Frame)
  /-- `ATTEST` (R400): Control-port command that returns a 472-byte report over the current measurements and the nonce, signed by IDK. -/
  | attest (f : Frame)
  /-- `READ` (R410): Control-port command that reads bytes at a global address under the space rules of R290, with a poison indication where it applies. -/
  | read (f : Frame)
  /-- `WRITE` (R410): Control-port command that writes bytes at a global address and replies once every write is visible. -/
  | write (f : Frame)
  /-- `LOAD` (R411): Control-port command that carries one frame of a job image; it starts, continues or ends the image, writes its chunks and runs the checks of R396. -/
  | load (f : Frame)
  /-- `START` (R416): Control-port command that checks FATAL, ACT_PEND, panel tables, routes and encryption, then enters RUNNING with the named job epoch or refuses. -/
  | start (f : Frame)
  /-- `STOP` (R412): Control-port command that stops issue, stream engines and the local-memory queues at once and withdraws the parked waits. -/
  | stop (f : Frame)
  /-- `HALT` (R35): Control-port HALT-AT-BOUNDARY command that raises the halt in every core. -/
  | halt (f : Frame)
  /-- `STATUS` (R417): Control-port command that returns the 64-byte status payload taken in one hub cycle. -/
  | status (f : Frame)
  /-- `SETCAP` (R361): Control-port command that sets the power cap and sends the new bay token ceilings to every meter within 10 us. -/
  | setcap (f : Frame)
  /-- `RESET` (R436): Control-port command that replies OK and then performs a warm reset. -/
  | reset (f : Frame)
  /-- `FREEZE` (R421): Control-port command that stops recording into the event recorder. -/
  | freeze (f : Frame)
  /-- `READREC` (R422): Control-port command that reads recorder storage as it stands. -/
  | readrec (f : Frame)
  /-- `UNFREEZE` (R421): Control-port command that resumes recording and, with ARG1[0] = 1, first empties the recorder. -/
  | unfreeze (f : Frame)
  /-- `CONTROL_LINK_TRAIN` (R405): The four-lane optical control link trains when the firmware starts, and again after every reset. -/
  | controlLinkTrain
  /-- `CONTROL_LINK_DOWN` (R405): A control-port lane loses lock and the link goes down. -/
  | controlLinkDown (lane : Nat)
  /-- `SEC_SESSION` (R398): A write of a session key SM2-encrypted to DTK opens a new control-port session that replaces the old one. -/
  | secSession (v : SessionIn)
  /-- `SEC_OWNER_IN` (R399): A write that enrols an owner record, or replaces it when signed by the current owner with a higher VERSION. -/
  | secOwnerIn (v : OwnerIn)
  /-- `SEC_DBG_CHAL` (R401): A read that makes a new debug challenge, valid for 60 s, and voids the previous one. -/
  | secDbgChal
  /-- `SEC_DBG_RESP` (R401): A write of a debug response; if valid, the device erases its keys, zeroises memory and opens the service header. -/
  | secDbgResp (verifies : Bool)
  /-- `DBG_CHALLENGE_EXPIRY` (R401): A debug challenge expires 60 s after it was made. -/
  | dbgChallengeExpiry
  /-- `TAMPER_TRIP` (R403): A tamper sensor trips; operations stop, keys and the owner record are erased, the latch is set and the rails are cycled. -/
  | tamperTrip (sensor : Nat)
  /-- `WD_FLIP` (R306): A write that flips a Weight Directory entry at once, or makes the flip pending at a step while RUNNING. -/
  | wdFlip (v : DWord)
  /-- `WD_FLIP_COMPLETE` (R306): WD_STEP_MIN reaches FLIPSTEP; the hub toggles SEL, clears PEND, counts the flip and records it. -/
  | wdFlipComplete (e : Nat)
  /-- `SEQ_COMMIT` (R311): A write that commits a manifest bank; the expander checks the whole manifest and starts the expansion or abandons it. -/
  | seqCommit (v : Word)
  /-- `SEQ_EXPANSION_DONE` (R315): Every output write of an expansion is visible; SEQ_SERIAL is incremented, BUSY cleared and the done semaphore posted. -/
  | seqExpansionDone
  /-- `MARCH_ONCHIP` (R384): SAND_MARCH.ONCHIP starts a march over every core's on-chip memories. -/
  | marchOnchip
  /-- `MARCH_HBM` (R384): SAND_MARCH.HBM starts a march over all of HBM. -/
  | marchHbm
  /-- `MARCH_DDR5` (R384): SAND_MARCH.DDR5 starts a march over the installed DDR5. -/
  | marchDdr5
  /-- `MARCH_DONE` (R384): Every named memory has been marched; BUSY clears and a held LOAD is then judged. -/
  | marchDone (found : MarchFindings)
  /-- `SAND_MARCH_FAIL_CLEAR` (R386): Writing 1 to SAND_MARCH.FAIL clears it. -/
  | sandMarchFailClear
  /-- `CORE_RESET` (R438): A write of 1 to CORE_RESET.GO resets one logical core's registers, engines, queues and waits. -/
  | coreReset (c : Nat)
  /-- `PORT_DISABLE` (R353): A write of FAB_PORT_CTRL.DISABLE holds a port DISABLED with REASON CONTROL. -/
  | portDisable (p : Nat)
  /-- `RETRAIN` (R325): A write of FAB_PORT_CTRL.RETRAIN makes a DOWN or DISABLED port train again. -/
  | retrain (p : Nat)
  /-- `CORE_FAULT_INFO` (R68): Writing 1 to VALID clears VALID and OVF of the core fault registers. -/
  | coreFaultInfo (c : Nat) (v : Word)
  /-- `SCR_STATUS` (R24): Writing 1 to ALIGN_ERR clears it. -/
  | scrStatus (v : Word)
  /-- `SEQ_STATUS` (R318): Writing 1 to ERR clears it. -/
  | seqStatus (v : Word)
  /-- `SCR_CLEAR` (R24): A write that clears SCR_ALIGN_CNT. -/
  | scrClear (v : Word)
  /-- `PNL_CLEAR` (R41): A write that clears the selected panel counters. -/
  | pnlClear (c : Nat) (v : Word)
  /-- `CORE_CLEAR` (R71): A write that clears the selected core counters and the token peak. -/
  | coreClear (c : Nat) (v : Word)
  /-- `CORE_FV2_CLEAR` (R213): A write that clears CORE_FV2_HOLD. -/
  | coreFv2Clear (c : Nat) (v : Word)
  /-- `MA_CLEAR` (R99): A write that clears the selected array counters. -/
  | maClear (c : Nat) (v : Word)
  /-- `WS_CLEAR` (R99): A write that clears the selected weight-stage counters. -/
  | wsClear (c : Nat) (v : Word)
  /-- `VE_CLEAR` (R154): A write that clears the selected vector counters. -/
  | veClear (c : Nat) (v : Word)
  /-- `SP_CLEAR` (R175): A write that clears the selected scratchpad counters. -/
  | spClear (c : Nat) (v : Word)
  /-- `CORE_STN_CLEAR` (R207): A write that clears the selected stencil counters. -/
  | coreStnClear (c : Nat) (v : Word)
  /-- `SE_CLEAR` (R251): A write that clears the selected stream engine counters. -/
  | seClear (c : Nat) (v : Word)
  /-- `Q_CLEAR` (R279): A write that clears the selected semaphore, queue, route and mailbox counters. -/
  | qClear (c : Nat) (v : Word)
  /-- `HBM_CLEAR` (R318): A write that clears the selected HBM counters and latency maxima. -/
  | hbmClear (v : Word)
  /-- `DDR_CLEAR` (R318): A write that clears the selected DDR5 counters. -/
  | ddrClear (v : Word)
  /-- `WD_CLEAR` (R318): A write that clears WD_REJECT_CNT. -/
  | wdClear (v : Word)
  /-- `SEQ_CLEAR` (R318): A write that clears the selected sequence counters. -/
  | seqClear (v : Word)
  /-- `FAB_CLEAR` (R353): A write that clears the selected fabric device counters. -/
  | fabClear (v : Word)
  /-- `FAB_PORT_CLEAR` (R353): A write that clears the selected counters of one port. -/
  | fabPortClear (p : Nat) (v : Word)
  /-- `GOV_CLEAR` (R368): A write that clears the selected governor counters. -/
  | govClear (v : Word)
  /-- `ACG_CLEAR` (R368): A write that resets the selected clock-region minima and counters. -/
  | acgClear (v : Word)
  /-- `XNG_CLEAR` (R368): A write that clears the crossing counters. -/
  | xngClear (v : Word)
  /-- `SAND_CLEAR` (R386): A write that clears the selected sanding counters. -/
  | sandClear (v : Word)
  /-- `SEC_CLEAR` (R404): A write that clears the selected security counters. -/
  | secClear (v : Word)
  /-- `CP_CLEAR` (R425): A write that clears the selected control-port counters. -/
  | cpClear (v : Word)
  /-- `REGISTER_WRITE` (R71): A write to a register that has no row of its own; a state-limited field is checked against the device state. -/
  | registerWrite (off : Nat) (v : Word)
  /-- `NOP` (R48): Opcode 0 in a slot does nothing. -/
  | nop (c : Nat)
  /-- `ADD` (R55): Scalar add. -/
  | add (c : Nat)
  /-- `SUB` (R55): Scalar subtract. -/
  | sub (c : Nat)
  /-- `MUL` (R55): Scalar multiply, keeping the low 32 bits. -/
  | mul (c : Nat)
  /-- `AND` (R55): Scalar bitwise AND. -/
  | and (c : Nat)
  /-- `OR` (R55): Scalar bitwise OR. -/
  | or (c : Nat)
  /-- `XOR` (R55): Scalar bitwise XOR. -/
  | xor (c : Nat)
  /-- `SHL` (R55): Scalar shift left by a register. -/
  | shl (c : Nat)
  /-- `SHR` (R55): Scalar logical shift right by a register. -/
  | shr (c : Nat)
  /-- `SRA` (R55): Scalar arithmetic shift right by a register. -/
  | sra (c : Nat)
  /-- `MIN` (R55): Scalar signed minimum. -/
  | min (c : Nat)
  /-- `MAX` (R55): Scalar signed maximum. -/
  | max (c : Nat)
  /-- `SLT` (R55): Scalar set if less than, signed. -/
  | slt (c : Nat)
  /-- `SLTU` (R55): Scalar set if less than, unsigned. -/
  | sltu (c : Nat)
  /-- `ADDI` (R55): Scalar add of a sign-extended immediate. -/
  | addi (c : Nat)
  /-- `ANDI` (R55): Scalar AND with a zero-extended immediate. -/
  | andi (c : Nat)
  /-- `ORI` (R55): Scalar OR with a zero-extended immediate. -/
  | ori (c : Nat)
  /-- `SHLI` (R55): Scalar shift left by an immediate. -/
  | shli (c : Nat)
  /-- `SHRI` (R55): Scalar logical shift right by an immediate. -/
  | shri (c : Nat)
  /-- `LUI` (R55): Load the immediate shifted left by 15. -/
  | lui (c : Nat)
  /-- `SLD` (R56): Checked scalar load of a scratchpad word. -/
  | sld (c : Nat)
  /-- `SST` (R56): Scalar store of a word to the scratchpad. -/
  | sst (c : Nat)
  /-- `BEQ` (R58): Branch if equal, with a delay bundle. -/
  | beq (c : Nat)
  /-- `BNE` (R58): Branch if not equal. -/
  | bne (c : Nat)
  /-- `BLT` (R58): Branch if less than, signed. -/
  | blt (c : Nat)
  /-- `BGE` (R58): Branch if greater than or equal, signed. -/
  | bge (c : Nat)
  /-- `BLTU` (R58): Branch if less than, unsigned. -/
  | bltu (c : Nat)
  /-- `JMP` (R58): Unconditional jump. -/
  | jmp (c : Nat)
  /-- `JAL` (R55): Jump and link. -/
  | jal (c : Nat)
  /-- `JR` (R55): Jump to the target in a register. -/
  | jr (c : Nat)
  /-- `LSET` (R55): Set a loop counter. -/
  | lset (c : Nat)
  /-- `LEND` (R58): Loop end: decrement the counter and branch while it is above 1. -/
  | lend (c : Nat)
  /-- `RDSYS` (R57): Read a system value, latching the upper halves of the tick and the step. -/
  | rdsys (c : Nat)
  /-- `PANEL_END` (R30): A bundle with MARK issues; the panel ends, the step counter advances, the table walk proceeds and pending governor steps are acknowledged. -/
  | panelEnd (c : Nat)
  /-- `PANEL_START` (R29): A panel's start condition holds; the panel starts, lateness is recorded and the crossings re-centre. -/
  | panelStart (c : Nat)
  /-- `PANEL_POST` (R31): Every effect of a panel is visible; the core adds 1 to the POST_H semaphore. -/
  | panelPost (c : Nat)
  /-- `CORE_HALT` (R35): The halt reaches a core at a panel boundary; the core lets issued work complete and becomes HALTED. -/
  | coreHalt (c : Nat)
  /-- `HALT_COMPLETE` (R372): Every core, engine, queue and remote request is quiet; the device enters HALTED or FAULTED and a job reset follows a fault. -/
  | haltComplete
  /-- `MMA` (R82): Each enabled array adds one rank-k product into the named bank, with INIT, SRD, LAST and GLZ handling. -/
  | mma (c : Nat)
  /-- `MRET` (R92): Starts retirement of a bank without a product. -/
  | mret (c : Nat)
  /-- `MDROP` (R80): Sets a bank IDLE and discards its contents. -/
  | mdrop (c : Nat)
  /-- `WLD` (R84): Copies scratchpad rows into weight-stage columns. -/
  | wld (c : Nat)
  /-- `RETIREMENT_MOVE` (R93): A retirement starts moving its tile into the finished-tile queue once its last product is visible and the queue is free. -/
  | retirementMove (c : Nat)
  /-- `TILE_READY` (R93): A retirement moves its last element; the bank becomes IDLE and the entry READY. -/
  | tileReady (c : Nat)
  /-- `VADD` (R141): Vector FP32 add. -/
  | vadd (c : Nat)
  /-- `VSUB` (R141): Vector FP32 subtract. -/
  | vsub (c : Nat)
  /-- `VMUL` (R141): Vector FP32 multiply. -/
  | vmul (c : Nat)
  /-- `VFMA` (R141): Vector fused multiply-add. -/
  | vfma (c : Nat)
  /-- `VFNMA` (R141): Vector fused negated multiply-add. -/
  | vfnma (c : Nat)
  /-- `VMIN` (R141): Vector FP32 minimum. -/
  | vmin (c : Nat)
  /-- `VMAX` (R141): Vector FP32 maximum. -/
  | vmax (c : Nat)
  /-- `VABS` (R141): Vector absolute value. -/
  | vabs (c : Nat)
  /-- `VNEG` (R141): Vector negate. -/
  | vneg (c : Nat)
  /-- `VAMAX` (R147): Vector maximum of finite magnitudes. -/
  | vamax (c : Nat)
  /-- `VCVTIF` (R139): Convert INT32 to FP32. -/
  | vcvtif (c : Nat)
  /-- `VCVTFI` (R139): Convert FP32 to INT32 with saturation. -/
  | vcvtfi (c : Nat)
  /-- `VSPLIT` (R123): Split FP32 into BF16 hi and lo parts. -/
  | vsplit (c : Nat)
  /-- `VSEL` (R139): Select lanes by a mask. -/
  | vsel (c : Nat)
  /-- `VMOV` (R139): Vector move. -/
  | vmov (c : Nat)
  /-- `VCLT` (R141): FP32 compare less-than into a mask. -/
  | vclt (c : Nat)
  /-- `VCLE` (R141): FP32 compare less-or-equal into a mask. -/
  | vcle (c : Nat)
  /-- `VCEQ` (R141): FP32 compare equal into a mask. -/
  | vceq (c : Nat)
  /-- `VIADD` (R139): INT32 add. -/
  | viadd (c : Nat)
  /-- `VISUB` (R139): INT32 subtract. -/
  | visub (c : Nat)
  /-- `VIMUL` (R139): INT32 multiply, low 32 bits. -/
  | vimul (c : Nat)
  /-- `VAND` (R139): Vector bitwise AND. -/
  | vand (c : Nat)
  /-- `VOR` (R139): Vector bitwise OR. -/
  | vor (c : Nat)
  /-- `VXOR` (R139): Vector bitwise XOR. -/
  | vxor (c : Nat)
  /-- `VSHL` (R139): Vector shift left. -/
  | vshl (c : Nat)
  /-- `VSHR` (R139): Vector logical shift right. -/
  | vshr (c : Nat)
  /-- `VSRA` (R139): Vector arithmetic shift right. -/
  | vsra (c : Nat)
  /-- `VIMIN` (R139): INT32 signed minimum. -/
  | vimin (c : Nat)
  /-- `VIMAX` (R139): INT32 signed maximum. -/
  | vimax (c : Nat)
  /-- `VICLT` (R139): INT32 signed compare into a mask. -/
  | viclt (c : Nat)
  /-- `VMAND` (R139): Mask AND. -/
  | vmand (c : Nat)
  /-- `VMOR` (R139): Mask OR. -/
  | vmor (c : Nat)
  /-- `VMXOR` (R139): Mask XOR. -/
  | vmxor (c : Nat)
  /-- `VMNOT` (R139): Mask NOT. -/
  | vmnot (c : Nat)
  /-- `VMLD` (R139): Load a mask from two S registers. -/
  | vmld (c : Nat)
  /-- `VEXP2` (R142): Correctly rounded 2^x. -/
  | vexp2 (c : Nat)
  /-- `VLOG2` (R142): Correctly rounded log2. -/
  | vlog2 (c : Nat)
  /-- `VRSQRT` (R142): Correctly rounded reciprocal square root. -/
  | vrsqrt (c : Nat)
  /-- `VRECIP` (R142): Correctly rounded reciprocal. -/
  | vrecip (c : Nat)
  /-- `VRAND` (R149): Keyed counter generator output per lane. -/
  | vrand (c : Nat)
  /-- `VDROP` (R149): Dropout by a keyed draw against a threshold. -/
  | vdrop (c : Nat)
  /-- `VRSUM` (R148): Ordered FP32 tree sum over the lanes. -/
  | vrsum (c : Nat)
  /-- `VRMAX` (R148): FP32 maximum over the lanes. -/
  | vrmax (c : Nat)
  /-- `VRMIN` (R148): FP32 minimum over the lanes. -/
  | vrmin (c : Nat)
  /-- `VRISUM` (R148): INT32 sum over the lanes. -/
  | vrisum (c : Nat)
  /-- `VMCNT` (R139): Count the mask bits into an S register. -/
  | vmcnt (c : Nat)
  /-- `VLD` (R145): Load and widen one scratchpad row into lanes. -/
  | vld (c : Nat)
  /-- `VLDSC` (R145): Load 32 block scales into lanes. -/
  | vldsc (c : Nat)
  /-- `VST` (R146): Convert lanes and store them to one row. -/
  | vst (c : Nat)
  /-- `VSTQ` (R147): Store lanes scaled by block exponents. -/
  | vstq (c : Nat)
  /-- `VSTSC` (R147): Store 32 block scales. -/
  | vstsc (c : Nat)
  /-- `VMXSC` (R147): Compute block exponents from maxima. -/
  | vmxsc (c : Nat)
  /-- `VFTQDROP` (R138): Discard the rest of the head finished-tile queue entry. -/
  | vftqdrop (c : Nat)
  /-- `LFILL` (R166): Queue a fill of rows with a 32-bit pattern. -/
  | lfill (c : Nat)
  /-- `LCOPY` (R167): Queue a copy of rows within the scratchpad. -/
  | lcopy (c : Nat)
  /-- `LSEG` (R168): Queue a change of segment states to EMPTY or LANDED. -/
  | lseg (c : Nat)
  /-- `LM_OP_START` (R164): A queued local-memory operation starts after the previous one's last row access. -/
  | lmOpStart (c : Nat)
  /-- `LSEG_ACT` (R168): LSEG changes segment state once earlier writes are visible and no segment is FILLING. -/
  | lsegAct (c : Nat)
  /-- `LM_OP_COMPLETE` (R165): A local-memory operation's writes are visible; its post is made and it leaves the queue. -/
  | lmOpComplete (c : Nat)
  /-- `SCRUB_READ` (R170): The scrubber reads one row every INTERVAL cycles and writes corrected or poisoned rows back. -/
  | scrubRead (c : Nat)
  /-- `SGO` (R223): Check, resolve and start a stream engine's program with parameters P0 and P1. -/
  | sgo (c : Nat)
  /-- `SPLD` (R224): Load a stream engine's 32 instructions from four scratchpad rows. -/
  | spld (c : Nat)
  /-- `SPLD_DONE` (R224): The program memory holds the new instructions 7 cycles after the last read. -/
  | spldDone (c : Nat) (e : Nat)
  /-- `SSTOP` (R225): Stop a stream engine. -/
  | sstop (c : Nat)
  /-- `SEND` (R225): Stream instruction that ends the program; the engine drains. -/
  | send (c : Nat) (e : Nat)
  /-- `SBASE` (R228): Bind an address register to a handle. -/
  | sbase (c : Nat) (e : Nat)
  /-- `SLDI` (R226): Load an address register with an unbound value. -/
  | sldi (c : Nat) (e : Nat)
  /-- `SADD` (R226): Add to an address register, keeping its binding. -/
  | sadd (c : Nat) (e : Nat)
  /-- `SWRAP` (R235): Wrap an address register into a ring. -/
  | swrap (c : Nat) (e : Nat)
  /-- `SREAD` (R230): Move lines from memory into this core's scratchpad. -/
  | sread (c : Nat) (e : Nat)
  /-- `SWRITE` (R231): Move lines from this core's scratchpad to memory. -/
  | swrite (c : Nat) (e : Nat)
  /-- `SGATH` (R232): Gather lines by index or page words. -/
  | sgath (c : Nat) (e : Nat)
  /-- `SLOOP` (R234): Set a stream loop counter. -/
  | sloop (c : Nat) (e : Nat)
  /-- `SNEXT` (R234): Stream loop end. -/
  | snext (c : Nat) (e : Nat)
  /-- `SWAIT` (R236): Stream semaphore wait, with optional subtraction. -/
  | swait (c : Nat) (e : Nat)
  /-- `SPOST` (R237): Fenced stream semaphore add. -/
  | spost (c : Nat) (e : Nat)
  /-- `SPOST_RELEASE` (R237): Every earlier line request is complete; the engine sends the add and continues. -/
  | spostRelease (c : Nat) (e : Nat)
  /-- `SRATE` (R239): Set the regulator rate, burst and tag quota. -/
  | srate (c : Nat) (e : Nat)
  /-- `LINE_REQUEST` (R238): A transfer issues its next line request once word, bucket, tag and meter allow, with alias translation and segment holds. -/
  | lineRequest (c : Nat) (e : Nat)
  /-- `LINE_ROW_LAND` (R242): A returning row is written through the SE_LAND port. -/
  | lineRowLand (c : Nat) (src : LandSrc)
  /-- `LINE_COMPLETE` (R246): A line's last row is visible or its write is acknowledged; the tag returns. -/
  | lineComplete (c : Nat) (tag : Nat)
  /-- `LINE_ERROR_RESPONSE` (R247): An error response to a line request arrives and is the engine's violation. -/
  | lineErrorResponse (c : Nat) (tag : Nat) (code : Nat)
  /-- `MEMORY_REQUEST` (R245): A line request reaches an HBM or DDR5 controller and is served in order. -/
  | memoryRequest (c : Nat) (tag : Nat) (ecc : EccFind)
  /-- `MERGED_LINE_RETURN` (R248): The controller reads a merged line once and multicasts it to its joiners. -/
  | mergedLineReturn (entry : Nat)
  /-- `HBM_REFRESH_WINDOW` (R295): A pseudo-channel's 120 tk refresh window opens on schedule. -/
  | hbmRefreshWindow (s : Nat) (pc : Nat)
  /-- `HBM_TEMP_REPORT` (R296): A stack reports its temperature across 85 or 82 C. -/
  | hbmTempReport (s : Nat) (deg : Nat)
  /-- `HBM_REF_RATE` (R296): At the next 3,840 tk boundary the stack starts or stops doubled refresh and records the change. -/
  | hbmRefRate (s : Nat)
  /-- `DDR_REFRESH_WINDOW` (R301): A DDR5 bank set's 130 tk refresh window opens on schedule. -/
  | ddrRefreshWindow (ch : Nat) (set : Nat)
  /-- `Q_SEND` (R270): Send one message on a route, taking a credit. -/
  | qSend (c : Nat)
  /-- `Q_RECV` (R269): Receive the head message of an inbound queue into S registers. -/
  | qRecv (c : Nat)
  /-- `MB_SEND` (R275): Send a mailbox record, with a pad at the ring end. -/
  | mbSend (c : Nat)
  /-- `MB_FREE` (R277): Return freed mailbox bytes to the sending route. -/
  | mbFree (c : Nat)
  /-- `QUEUE_MESSAGE_ARRIVAL` (R271): A message reaches an inbound queue and is queued, or discarded if the queue is closed. -/
  | queueMessageArrival (c : Nat) (q : Nat)
  /-- `CREDIT_RETURN` (R270): A freed queue credit reaches the sender. -/
  | creditReturn (c : Nat) (r : Nat)
  /-- `CLOSE_NOTICE` (R272): A close notice reaches a route and makes it SEVERED. -/
  | closeNotice (c : Nat) (r : Nat)
  /-- `MAILBOX_RECORD_LAND` (R276): A mailbox record's rows are visible; the receiver posts the mailbox semaphore. -/
  | mailboxRecordLand (c : Nat) (m : Nat)
  /-- `MAILBOX_CREDIT` (R277): Freed mailbox bytes reach the sender's route credit. -/
  | mailboxCredit (c : Nat) (r : Nat)
  /-- `SEM_WAIT` (R255): Control-slot wait until a semaphore holds at least a count. -/
  | semWait (c : Nat)
  /-- `SEM_WSUB` (R255): Control-slot wait, then subtract the count at release. -/
  | semWsub (c : Nat)
  /-- `SEM_ADD` (R255): Control-slot add to a semaphore, optionally fenced. -/
  | semAdd (c : Nat)
  /-- `SEM_SUB` (R255): Control-slot subtract from a semaphore, optionally fenced. -/
  | semSub (c : Nat)
  /-- `SEM_FENCE_RELEASE` (R262): Earlier traffic is applied and visible; the held fenced update leaves the sync port. -/
  | semFenceRelease (c : Nat)
  /-- `SEM_HOME_CYCLE` (R259): Each cycle a home applies up to two updates per semaphore and releases or times out its parked waits. -/
  | semHomeCycle (place : Nat)
  /-- `SEM_RELEASE` (R258): A release reaches the waiting party, which resumes. -/
  | semRelease (c : Nat) (party : Nat)
  /-- `SEM_WAIT_RESEND` (R260): 64 tk after a RETRY arrives, the requester sends the wait again. -/
  | semWaitResend (c : Nat) (party : Nat)
  /-- `WAIT_LIMIT_EXPIRY` (R264): A wait passes SEM_WAIT_LIMIT; the party abandons it, records WAIT_TIMEOUT and faults. -/
  | waitLimitExpiry (c : Nat) (party : Nat)
  /-- `REMOTE_WAIT_EXPIRY` (R265): A remote home has not answered by the deadline plus 100,000 tk; the wait is treated as timed out. -/
  | remoteWaitExpiry (c : Nat) (party : Nat)
  /-- `BANK_HOLD_TIMEOUT` (R281): A bundle or stencil front held under BANK or FTQ for the wait limit times out. -/
  | bankHoldTimeout (c : Nat)
  /-- `STLD` (R177): Load the stencil registers from eight scratchpad rows. -/
  | stld (c : Nat)
  /-- `STGO` (R178): Hand issue to the stencil sequencer. -/
  | stgo (c : Nat)
  /-- `STLDGO` (R176): Load the stencil registers, then start the stencil. -/
  | stldgo (c : Nat)
  /-- `STENCIL_FRONT_START` (R185): A stencil front starts after its wait and pending registers; it resolves and checks its handles and bounds. -/
  | stencilFrontStart (c : Nat)
  /-- `SEQUENCER_ISSUE` (R179): The sequencer issues a generated bundle with the front's matrix operation and the epilogue's micro-op. -/
  | sequencerIssue (c : Nat)
  /-- `STENCIL_CHAIN_LOAD` (R197): When a front ends with CHAIN, the sequencer reads the next stencil's rows. -/
  | stencilChainLoad (c : Nat)
  /-- `STENCIL_COMPLETE` (R180): Front and epilogue are done and visible; the stencil completes and makes its post. -/
  | stencilComplete (c : Nat)
  /-- `TOKEN_METER_CYCLE` (R362): Each bay cycle the meter grants or refuses each core's request against the ceiling. -/
  | tokenMeterCycle (b : Nat) (cy : BayCycle)
  /-- `SUPPLY_DROOP` (R356): A region's supply droops and its cycles stretch. -/
  | supplyDroop (r : Nat) (mhz : Nat)
  /-- `REGION_UV` (R356): A region's supply falls below its droop floor; fatal error and record. -/
  | regionUv (r : Nat)
  /-- `REPLICA_FAIL` (R360): A replica margin below 0 ps is a fatal error of the region. -/
  | replicaFail (r : Nat)
  /-- `GOVERNOR_EVALUATION` (R363): Every 1,000,000 tk the governor reads the sensors and decides at most one step per bay. -/
  | governorEvaluation (x : Sensors)
  /-- `BAY_STEP_APPLY` (R364): Every core of the bay has acknowledged; the oscillator moves to the new target and the step is recorded. -/
  | bayStepApply (b : Nat)
  /-- `SANDING_PASS_START` (R381): Sanding starts a pass on a core in a qualifying window, or counts a skip. -/
  | sandingPassStart (c : Nat)
  /-- `SANDING_PASS_DONE` (R382): A pass completes and compares its signature; a mismatch is a finding. -/
  | sandingPassDone (c : Nat) (ok : Bool)
  /-- `SANDING_ABORT` (R381): At the successor's planned start less 300 tk, or at a halt, a running pass stops and restores the registers. -/
  | sandingAbort (c : Nat)
  /-- `SANDING_OVERDUE_CHECK` (R383): Every 10^9 tk the firmware reports cores whose last pass is overdue. -/
  | sandingOverdueCheck (c : Nat)
  /-- `WATCHDOG` (R373): The management core goes 10 ms without service; fatal error. -/
  | watchdog
  /-- `HEARTBEAT_SEND` (R339): Every 10,000 tk each ACTIVE port sends a heartbeat. -/
  | heartbeatSend (p : Nat)
  /-- `HEARTBEAT` (R339): A heartbeat is received; the device computes offset and delay and slews toward its parent. -/
  | heartbeat (p : Nat) (h : HeartbeatIn)
  /-- `ROOT_TIME_START` (R342): 50 ms after its ports are ACTIVE, a time root with no locked neighbour starts its counter at 1. -/
  | rootTimeStart
  /-- `HEARTBEAT_TIMEOUT` (R347): No heartbeat for 40,000 tk takes the port DOWN. -/
  | heartbeatTimeout (p : Nat)
  /-- `PORT_SIGNAL_LOSS` (R347): A port loses signal, alignment or FEC lock and goes DOWN; a job fault follows while RUNNING. -/
  | portSignalLoss (p : Nat)
  /-- `PORT_DETECT` (R325): A listed DOWN port detects a signal and the generation and begins training. -/
  | portDetect (p : Nat) (gen : Nat)
  /-- `PORT_TRAIN_DONE` (R326): Training completes with lane steering and width selection. -/
  | portTrainDone (p : Nat) (failed : Nat)
  /-- `TRAIN_TIMEOUT` (R325): Training does not finish in time; the port is DISABLED with TRAIN_FAIL. -/
  | trainTimeout (p : Nat)
  /-- `PORT_IDENT` (R331): Identity exchange against the manifest; the port becomes ACTIVE or DISABLED. -/
  | portIdent (p : Nat) (id : NeighbourId)
  /-- `LANE_REPAIR` (R327): A degraded lane is steered onto the spare in service within 20 us. -/
  | laneRepair (p : Nat) (x : LaneFec)
  /-- `GROUP_REPLAY` (R328): A group fails CRC, RS or GCM; the sender replays from that group. -/
  | groupReplay (p : Nat) (kind : Nat)
  /-- `RD_LINE` (R337): Inbound request to read one line. -/
  | rdLine (h : FabHeader) (ecc : EccFind)
  /-- `WR_LINE` (R337): Inbound request to write one line with its poison. -/
  | wrLine (h : FabHeader) (line : List Byte) (poison : Bool)
  /-- `SEM_OP` (R337): Inbound semaphore operation with count and deadline. -/
  | semOp (h : FabHeader) (kind : Nat) (amount : Nat) (deadline : Nat)
  /-- `MBX_REC` (R337): Inbound mailbox record. -/
  | mbxRec (h : FabHeader) (rec : List Byte) (poison : List Bool)
  /-- `MBX_CREDIT` (R337): Inbound posted mailbox credit. -/
  | mbxCredit (h : FabHeader) (bytes : Nat)
  /-- `CLOSE` (R337): Inbound close notice that severs a route. -/
  | close (h : FabHeader)
  /-- `RD_DATA` (R337): Response carrying a line, its ECC result and its poison. -/
  | rdData (h : FabHeader) (line : List Byte) (poison : Bool)
  /-- `WR_ACK` (R337): Response acknowledging a complete write. -/
  | wrAck (h : FabHeader)
  /-- `SEM_DONE` (R337): Response for an applied update, a released wait or a timed-out wait. -/
  | semDone (h : FabHeader) (timeout : Bool)
  /-- `RETRY` (R260): Response reporting a full wait store. -/
  | retry (h : FabHeader)
  /-- `ERR` (R337): Error response with a code. -/
  | err (h : FabHeader) (code : Nat)
  /-- `MBX_ACK` (R337): Response for a landed and posted mailbox record. -/
  | mbxAck (h : FabHeader)
  /-- `JOB_FAULT` (R348): A flooded job fault broadcast; the first receipt is forwarded and raises the halt. -/
  | jobFault (h : FabHeader) (serial : Nat) (reason : Nat) (tick : Nat)
  /-- `RECORDER_EVENT` (R419): An event leaves the recorder queue and is stored, folded, counted as lost or counted as frozen. -/
  | recorderEvent
  /-- `PWR_GOOD_ASSERT` (R427): pwr_good asserts and the power-up sequence runs its steps to IDLE or FAULTED. -/
  | pwrGoodAssert (boot : BootEnv)
  /-- `PWR_GOOD_DEASSERT` (R426): The input leaves its limits; the rails come down and the device is OFF. -/
  | pwrGoodDeassert
  /-- `RAIL_RETRY` (R428): 1 s after a rail fails to regulate, the sequencer tries once more. -/
  | railRetry (boot : BootEnv)
  /-- `LOCK_TIMEOUT` (R433): 30 s into step 13 without lock, the device enters IDLE unlocked. -/
  | lockTimeout
  /-- `COOLANT_FLOW_LOSS` (R445): Flow below 2.0 L/min or an inlet above 45 C for 100 ms takes the input out of limits. -/
  | coolantFlowLoss
  /-- `DDR_LATCH_OPEN` (R447): A DDR5 socket latch opens with power present; pwr_good deasserts. -/
  | ddrLatchOpen (ch : Nat)
  /-- `STLD_DONE` (R177): The stencil registers take all eight rows together once the last of the STLD reads is served; from c + 14 when no read is held, later when a checked read waits on segment state. -/
  | stldDone (c : Nat)
  /-- `SCRIM_MODULE_FAIL` (R323): A scrim module fails in service; this is a fatal error of the device and writes a SCRIM_FAIL record. -/
  | scrimModuleFail (link : Nat) (module : Nat)
  /-- `SUPPLY_RECOVERY` (R356): A drooped region supply recovers and each cycle returns to the target period. -/
  | supplyRecovery (r : Nat)
  /-- `ILLEGAL_COMMAND` (R408): A request frame with a reserved CMD, a nonzero reserved field or a disallowed LENGTH is ignored, counted, recorded and answered IGNORED. -/
  | illegalCommand (cmd : Nat) (f : Frame)
  /-- `UNSUPPORTED_TRANSACTION` (R337): An inbound FFP-3 transaction with a reserved opcode is discarded and counted in FAB_UNSUP_CNT. -/
  | unsupportedTransaction (h : FabHeader) (op : Nat)
deriving DecidableEq, Repr

end Sys2Proof
end

