-- ==== Sys2Proof/Machine/Bits.lean ====
section
/-!
DEFINITION. Bit fields, sign extension, saturating counts, byte order and the operations of the sparse map.
Everything here is plain structural recursion, so that the kernel can evaluate it.
-/

namespace Sys2Proof.Machine

/-- Bits hi down to lo of the number w. -/
def bits (w hi lo : Nat) : Nat := (w >>> lo) % 2 ^ (hi + 1 - lo)

/-- Bit i of the number w. -/
def bit (w i : Nat) : Bool := (w >>> i) % 2 == 1

/-- The number w with the bits hi down to lo replaced by v. -/
def setBits (w hi lo v : Nat) : Nat :=
  (w >>> (hi + 1)) <<< (hi + 1) + (v % 2 ^ (hi + 1 - lo)) <<< lo + w % 2 ^ lo

/-- A Boolean as a number. -/
def b2n (b : Bool) : Nat := if b then 1 else 0

/-- The two's complement reading of the low n bits of w. -/
def sext (n w : Nat) : Int :=
  let v := w % 2 ^ n
  if v < 2 ^ (n - 1) then (v : Int) else (v : Int) - (2 ^ n : Nat)

/-- An integer modulo 2 to the n, as a natural number. -/
def wrapInt (n : Nat) (z : Int) : Nat := (z % ((2 ^ n : Nat) : Int)).toNat

/-- A count that stops at its largest value (R10). -/
def satAdd (w a b : Nat) : Nat := min (a + b) (2 ^ w - 1)

/-- Little-endian bytes of a number, n of them (R6). -/
def toBytes : Nat → Nat → List Byte
  | 0, _ => []
  | n + 1, w => BitVec.ofNat 8 (w % 256) :: toBytes n (w / 256)

/-- The number that little-endian bytes spell (R6). -/
def ofBytes : List Byte → Nat
  | [] => 0
  | b :: bs => b.toNat + 256 * ofBytes bs

/-- A list of n words cut out of a number, lowest first, w bits each. -/
def cut (w : Nat) : Nat → Nat → List Nat
  | 0, _ => []
  | n + 1, x => (x % 2 ^ w) :: cut w n (x >>> w)

/-- The number whose w-bit fields, lowest first, are the list's. -/
def join (w : Nat) : List Nat → Nat
  | [] => 0
  | x :: xs => x % 2 ^ w + (join w xs) <<< w

/-- The entry of a sparse map at key k, or the default. -/
def aget {α : Type} (d : α) : AMap α → Nat → α
  | [], _ => d
  | (j, v) :: m, k => if j == k then v else aget d m k

/-- A sparse map without any entry at key k. -/
def adel {α : Type} : AMap α → Nat → AMap α
  | [], _ => []
  | (j, v) :: m, k => if j == k then adel m k else (j, v) :: adel m k

/-- Insertion in rising key order; an equal key is the caller's to remove. -/
def ains {α : Type} : AMap α → Nat → α → AMap α
  | [], k, v => [(k, v)]
  | (j, w) :: m, k, v => if k < j then (k, v) :: (j, w) :: m else (j, w) :: ains m k v

/-- The sparse map with entry v at key k. -/
def aput {α : Type} (m : AMap α) (k : Nat) (v : α) : AMap α := ains (adel m k) k v

/-- The entry at a key, where there is one. -/
def afind {α : Type} : AMap α → Nat → Option α
  | [], _ => none
  | (j, v) :: m, k => if j == k then some v else afind m k

/-- A counter map: the count at a key grows by n and stops at 2^32 - 1 (R10). -/
def abump (m : AMap Nat) (k n : Nat) : AMap Nat := aput m k (satAdd 32 (aget 0 m k) n)

/-- The list with position i replaced. -/
def lset {α : Type} : List α → Nat → α → List α
  | [], _, _ => []
  | _ :: xs, 0, v => v :: xs
  | x :: xs, i + 1, v => x :: lset xs i v

/-- The first element that satisfies p, and the list without it. -/
def takeFirst {α : Type} (p : α → Bool) : List α → Option (α × List α)
  | [] => none
  | x :: xs =>
    if p x then some (x, xs)
    else match takeFirst p xs with
      | some (y, ys) => some (y, x :: ys)
      | none => none

/-- Set difference and union on lists of keys, kept without repeats. -/
def keyAdd (l : List Nat) (k : Nat) : List Nat := if l.contains k then l else k :: l

/-- A number from lo to hi. -/
def within (off lo hi : Nat) : Bool := lo ≤ off && off ≤ hi

/-- The numbers 0 to n - 1, rising. -/
def upto (n : Nat) : List Nat := List.range n

end Sys2Proof.Machine
end

