-- ==== Sys2Proof/Machine/Mem.lean ====
section
/-!
DEFINITION. Byte memories: lists of (address, byte) pairs in one canonical form. Addresses rise strictly and no entry
is 0, which is what an unlisted address reads as: the spec leaves every store zero after a cold reset (R85, R299,
R302, R429).
-/

namespace Sys2Proof.Machine

/-- One byte; 0 where nothing is listed. -/
def mget (m : List Host.Cell) (a : Nat) : Byte := aget 0#8 m a

/-- One byte written; a zero removes the entry. -/
def mput (m : List Host.Cell) (a : Nat) (v : Byte) : List Host.Cell :=
  if v == 0#8 then adel m a else aput m a v

/-- n bytes from address a. -/
def mgets (m : List Host.Cell) : Nat → Nat → List Byte
  | _, 0 => []
  | a, n + 1 => mget m a :: mgets m (a + 1) n

/-- Bytes written from address a on. -/
def mputs (m : List Host.Cell) : Nat → List Byte → List Host.Cell
  | _, [] => m
  | a, b :: bs => mputs (mput m a b) (a + 1) bs

/-- Bytes written where the list gives one (R158). -/
def mputSome (m : List Host.Cell) : Nat → List (Option Byte) → List Host.Cell
  | _, [] => m
  | a, none :: bs => mputSome m (a + 1) bs
  | a, some b :: bs => mputSome (mput m a b) (a + 1) bs

/-- One byte of a row write: the bits that it writes, their values. -/
abbrev ByteWrite := Byte × Byte

/-- Bits written from address a on (R134, R158). -/
def mputBits (m : List Host.Cell) : Nat → List ByteWrite → List Host.Cell
  | _, [] => m
  | a, x :: xs =>
    mputBits (if x.1 == 0#8 then m else mput m a ((mget m a &&& ~~~x.1) ||| (x.2 &&& x.1))) (a + 1) xs

/-- Every key of the list lies above a. -/
def keysAbove {α : Type} (a : Nat) : AMap α → Bool
  | [] => true
  | (k, _) :: m => decide (a < k) && keysAbove k m

/-- The canonical form of a sparse map: keys strictly rising. -/
def keysRise {α : Type} : AMap α → Bool
  | [] => true
  | (k, _) :: m => keysAbove k m

/-- The canonical form of a byte memory. -/
def Memory.wf (m : List Host.Cell) : Bool := keysRise m && m.all fun p => p.2 != 0#8

/-- The little-endian number in n bytes at a. -/
def mnum (m : List Host.Cell) (a n : Nat) : Nat := ofBytes (mgets m a n)

end Sys2Proof.Machine
end

