-- ==== Sys2Proof/Config.lean ====
section
/-!
DEFINITION. What one implementation fixes and the spec leaves open. Every free value is an opaque constant:
nothing can be proved of its value, so a claim holds whatever it is.
-/

namespace Sys2Proof.Config

/-- FREE VALUE. A value drawn with the counter State.free, w bits wide (log entry 4). -/
opaque freeBits : (w : Nat) → Nat → BitVec w

/-- FREE VALUE. The element pattern that an unscaled store writes for a NaN lane into a format without NaN: Table
05-6 gives only the block scale there (log entry 10). Arguments: format code, lane bits. -/
opaque nanElement : Nat → Nat → BitVec 8

/-- FREE VALUE. Bank and row of the DRAM page that a line of HBM lies in, as HBANK and HROW of Table 16-6 name them, by line
number (R298 names pages, the spec gives the place of a line within its pseudo-channel nowhere; log entry 9). -/
opaque hbmPage : Nat → BitVec 24

/-- FREE VALUE. The 64 bits that log a handle-table entry with an offending offset (R173 gives the two parts, and no
layout; log entry 14). Arguments: entry, offset. -/
opaque handleWord : Nat → Nat → BitVec 64

/-- FREE VALUE. What a DDR5 line reads as once its keys are erased (R401, R403), by line number. -/
opaque lostLine : Nat → BitVec 4096

/-- FREE VALUE. Digest of a byte string by the hash of the security block (R400; log entry 6). -/
opaque digest : List Byte → BitVec 256

/-- FREE VALUE. Signature by a key of the device over a digest (R400; log entry 6). -/
opaque signature : Nat → BitVec 256 → BitVec 512

/-- FREE VALUE. Whether a signature that this device did not make verifies over a digest: key 1 IDK for the purpose
QODAL-PATCH, 2 the fused service key for it (R375, R377, Table 17-2; log entry 6). -/
opaque sigValid : Nat → BitVec 256 → BitVec 512 → Bool

/-- FREE VALUE. Public halves of IDK and DTK, and the IDK certificate, made at manufacture (R389, R390). -/
opaque idkPub : BitVec 512
opaque dtkPub : BitVec 512
opaque cert : BitVec 8192

/-- FREE VALUE. The module is a QFV3-M25Q, and its serial (R410). -/
opaque quickCouplings : Bool
opaque moduleSerial : BitVec 64

/-- FREE VALUE. Digest of the mask ROM, measurement 0 (R393). -/
opaque romDigest : BitVec 256

/-- FREE VALUE. CRC-64 of a group's 255 flits (R320 gives no polynomial; log entry 108), by group number. -/
opaque groupCrc : Nat → BitVec 64

/-- FREE VALUE. Requests that the REQ buffer of a port holds (R335, R338 give no number; log entry 19). -/
opaque reqBuffer : Nat

/-- FREE VALUE. Tokens that a sanding pass requests in one cycle (R380 gives no number; log entry 18). -/
opaque sandTokens : Nat

end Sys2Proof.Config
end

