-- ==== Sys2Proof/Machine/Num.lean ====
section
/-!
DEFINITION. Number formats, conversions and the correctly rounded functions (05_formats_and_accumulation.md,
06_vector_engine.md). Every value is an exact dyadic number, rounded once at the end.
-/

namespace Sys2Proof.Machine

/-- The value of a bit pattern (R101, R102): a NaN, an infinity, or (-1)^neg * m * 2^e. -/
inductive FVal where
  | nan
  | inf (neg : Bool)
  | fin (neg : Bool) (m : Nat) (e : Int)
deriving DecidableEq, Repr

/-- How a format treats its top exponent: as IEEE 754, as E4M3, or with no special encodings (Table 05-2). -/
inductive Special where
  | ieee
  | e4m3
  | none
deriving DecidableEq, Repr

/-- A floating-point element format (Table 05-1): exponent bits, mantissa bits, bias, special encodings. -/
structure FFmt where
  ebits : Nat
  pbits : Nat
  bias : Nat
  special : Special
deriving DecidableEq, Repr

def fmt32 : FFmt := ⟨8, 23, 127, .ieee⟩
def fmtBF16 : FFmt := ⟨8, 7, 127, .ieee⟩
def fmtFP16 : FFmt := ⟨5, 10, 15, .ieee⟩
def fmtE4M3 : FFmt := ⟨4, 3, 7, .e4m3⟩
def fmtE5M2 : FFmt := ⟨5, 2, 15, .ieee⟩
def fmtE3M2 : FFmt := ⟨3, 2, 3, .none⟩
def fmtE2M3 : FFmt := ⟨2, 3, 1, .none⟩
def fmtE2M1 : FFmt := ⟨2, 1, 1, .none⟩

/-- Rounding modes (Table 05-5). -/
inductive Rnd where
  | rne
  | rtz
  | sr
deriving DecidableEq, Repr

/-- The value of pattern x in format f (R101, R102). -/
def FFmt.decode (f : FFmt) (x : Nat) : FVal :=
  let m := x % 2 ^ f.pbits
  let ef := (x >>> f.pbits) % 2 ^ f.ebits
  let neg := bit x (f.pbits + f.ebits)
  let top := ef == 2 ^ f.ebits - 1
  let finite : FVal :=
    if ef == 0 then .fin neg m (1 - (f.bias : Int) - f.pbits)
    else .fin neg (2 ^ f.pbits + m) ((ef : Int) - f.bias - f.pbits)
  match f.special with
  | .ieee => if top then (if m == 0 then .inf neg else .nan) else finite
  | .e4m3 => if top && m == 2 ^ f.pbits - 1 then .nan else finite
  | .none => finite

/-- The largest finite pattern of a format, without its sign (Table 05-1). -/
def FFmt.maxFinite (f : FFmt) : Nat :=
  match f.special with
  | .ieee => (2 ^ f.ebits - 1) * 2 ^ f.pbits - 1
  | .e4m3 => 2 ^ (f.ebits + f.pbits) - 2
  | .none => 2 ^ (f.ebits + f.pbits) - 1

/-- The canonical NaN pattern (Table 05-2); formats without NaN have none and answer 0. -/
def FFmt.nanBits (f : FFmt) : Nat :=
  match f.special with
  | .ieee => (2 ^ f.ebits - 1) * 2 ^ f.pbits + (if f.pbits ≤ 2 then 2 else 2 ^ (f.pbits - 1))
  | .e4m3 => 2 ^ (f.ebits + f.pbits) - 1
  | .none => 0

/-- The pattern of an infinity's magnitude in an IEEE-style format. -/
def FFmt.infBits (f : FFmt) : Nat := (2 ^ f.ebits - 1) * 2 ^ f.pbits

/-- The pattern with its sign bit set when neg. -/
def FFmt.signed (f : FFmt) (neg : Bool) (x : Nat) : Nat :=
  if neg then x + 2 ^ (f.ebits + f.pbits) else x

/-- The magnitude m divided by 2^s, rounded to an integer in a mode (R111, R115); r is the drawn word of SR. -/
def roundShift (md : Rnd) (r : Nat) (m s : Nat) : Nat :=
  let far := Nat.log2 m + 40 < s
  if far then (match md with | .sr => if r / 256 < (m <<< 24) >>> s then 1 else 0 | _ => 0)
  else
    let q := m >>> s
    let rem := m % 2 ^ s
    match md with
    | .rtz => q
    | .rne => if 2 * rem > 2 ^ s || (2 * rem == 2 ^ s && q % 2 == 1) then q + 1 else q
    | .sr => if r / 256 < (rem <<< 24) >>> s then q + 1 else q

/-- A magnitude rounded to a multiple of 2^u: how many of them (R111). -/
def roundTo (md : Rnd) (r : Nat) (m : Nat) (e u : Int) : Nat :=
  if u ≤ e then m <<< (e - u).toNat else roundShift md r m (u - e).toNat

/-- What a conversion makes of an overflow or an infinite input (Table 05-6). -/
def FFmt.overflow (f : FFmt) (md : Rnd) (sat isInf neg : Bool) : Nat :=
  match f.special with
  | .ieee => if sat || (md == .rtz && !isInf) then f.signed neg f.maxFinite else f.signed neg f.infBits
  | .e4m3 => if sat then f.signed neg f.maxFinite else f.nanBits
  | .none => f.signed neg f.maxFinite

/-- Conversion of an exact value into a floating-point format (R111, R112). -/
def FFmt.encode (f : FFmt) (md : Rnd) (sat : Bool) (r : Nat) (v : FVal) : Nat :=
  match v with
  | .nan => f.nanBits
  | .inf neg => f.overflow md sat true neg
  | .fin neg m e =>
    if m == 0 then f.signed neg 0
    else
      let l : Int := e + Nat.log2 m
      let emin : Int := 1 - (f.bias : Int)
      if l > f.bias + 2 then f.overflow md sat false neg
      else
        let u : Int := max l emin - f.pbits
        let q := roundTo md r m e u
        let x := ((u + f.pbits + f.bias - 1).toNat) * 2 ^ f.pbits + q
        if x > f.maxFinite then f.overflow md sat false neg else f.signed neg x

/-- The value of an FP32 pattern. -/
def dec32 (x : Word) : FVal := fmt32.decode x.toNat

/-- RNE32: an exact value rounded to binary32 under RNE, SAT = 0 (R119). -/
def rne32 (v : FVal) : Word := BitVec.ofNat 32 (fmt32.encode .rne false 0 v)

/-- A signed integer times a power of two as a value; zero is +0. -/
def ofDyadic (z : Int) (e : Int) : FVal := .fin (decide (z < 0)) z.natAbs e

/-- The signed mantissa of a finite magnitude. -/
def signedMant (neg : Bool) (m : Nat) : Int := if neg then -(m : Int) else m

/-- Sum of two exact dyadic numbers (mantissa, exponent). -/
def dyAdd (a b : Int × Int) : Int × Int :=
  if a.1 = 0 then b else if b.1 = 0 then a
  else if a.2 ≤ b.2 then (a.1 + b.1 * 2 ^ (b.2 - a.2).toNat, a.2)
  else (a.1 * 2 ^ (a.2 - b.2).toNat + b.1, b.2)

/-- The exact sum of two values with IEEE 754 specials and zero signs (R120, R126). -/
def fadd (a b : FVal) : FVal :=
  match a, b with
  | .nan, _ => .nan
  | _, .nan => .nan
  | .inf s, .inf t => if s == t then .inf s else .nan
  | .inf s, .fin .. => .inf s
  | .fin .., .inf t => .inf t
  | .fin s m e, .fin t n f =>
    if m == 0 && n == 0 then .fin (s && t) 0 0
    else
      let r := dyAdd (signedMant s m, e) (signedMant t n, f)
      ofDyadic r.1 r.2

/-- The exact product of two values (R120). -/
def fmul (a b : FVal) : FVal :=
  match a, b with
  | .nan, _ => .nan
  | _, .nan => .nan
  | .inf s, .inf t => .inf (s != t)
  | .inf s, .fin t n _ => if n == 0 then .nan else .inf (s != t)
  | .fin s m _, .inf t => if m == 0 then .nan else .inf (s != t)
  | .fin s m e, .fin t n f => .fin (s != t) (m * n) (e + f)

/-- Negation. -/
def fneg : FVal → FVal
  | .nan => .nan
  | .inf s => .inf (!s)
  | .fin s m e => .fin (!s) m e

/-- Magnitude. -/
def fabs : FVal → FVal
  | .nan => .nan
  | .inf _ => .inf false
  | .fin _ m e => .fin false m e

/-- Times a power of two. -/
def fscale (k : Int) : FVal → FVal
  | .fin s m e => .fin s m (e + k)
  | v => v

/-- Whether the value is a NaN. -/
def FVal.isNan : FVal → Bool
  | .nan => true
  | _ => false

/-- Order of two finite magnitudes with sign: a < b. -/
def finLt (s : Bool) (m : Nat) (e : Int) (t : Bool) (n : Nat) (f : Int) : Bool :=
  decide ((dyAdd (signedMant s m, e) (-(signedMant t n), f)).1 < 0)

/-- a < b; false for every pair that contains a NaN (R141). -/
def flt (a b : FVal) : Bool :=
  match a, b with
  | .nan, _ => false
  | _, .nan => false
  | .inf s, .inf t => s && !t
  | .inf s, .fin .. => s
  | .fin .., .inf t => !t
  | .fin s m e, .fin t n f => finLt s m e t n f

/-- a = b as numbers: +0 equals -0, NaN equals nothing (R141). -/
def feq (a b : FVal) : Bool := !a.isNan && !b.isNan && !flt a b && !flt b a

/-- The canonical FP32 NaN (Table 05-2). -/
def nan32 : Word := 0x7FC00000#32

/-- Minimum and maximum of two FP32 patterns; NaN for a NaN, -0 below +0 (R141). -/
def fmin32 (a b : Word) : Word :=
  let x := dec32 a
  let y := dec32 b
  if x.isNan || y.isNan then nan32
  else if flt x y then a else if flt y x then b
  else if a.msb then a else b

def fmax32 (a b : Word) : Word :=
  let x := dec32 a
  let y := dec32 b
  if x.isNan || y.isNan then nan32
  else if flt x y then b else if flt y x then a
  else if a.msb then b else a

/-- FP32 sum, product and fused operations on patterns (R141). -/
def add32 (a b : Word) : Word := rne32 (fadd (dec32 a) (dec32 b))
def sub32 (a b : Word) : Word := rne32 (fadd (dec32 a) (fneg (dec32 b)))
def mul32 (a b : Word) : Word := rne32 (fmul (dec32 a) (dec32 b))
def fma32 (a b c : Word) : Word := rne32 (fadd (fmul (dec32 a) (dec32 b)) (dec32 c))
def fnma32 (a b c : Word) : Word := rne32 (fadd (fneg (fmul (dec32 a) (dec32 b))) (dec32 c))

/-- |x| and -x change only the sign bit of a non-NaN (R141); a NaN gives the canonical NaN (R103). -/
def abs32 (a : Word) : Word := if (dec32 a).isNan then nan32 else a &&& 0x7FFFFFFF#32
def neg32 (a : Word) : Word := if (dec32 a).isNan then nan32 else a ^^^ 0x80000000#32

/-- fin|x| of R147. -/
def finAbs32 (a : Word) : Word :=
  match dec32 a with
  | .nan => nan32
  | .inf _ => 0#32
  | .fin .. => a &&& 0x7FFFFFFF#32

/-- Rounding of a value to an integer in a mode (Table 05-6). -/
def toInt (md : Rnd) (r : Nat) (neg : Bool) (m : Nat) (e : Int) : Int :=
  signedMant neg (roundTo md r m e 0)

/-- Conversion to an integer that saturates at lo and hi; NaN gives 0 (Table 05-6). -/
def convInt (md : Rnd) (r : Nat) (lo hi : Int) (v : FVal) : Int :=
  match v with
  | .nan => 0
  | .inf neg => if neg then lo else hi
  | .fin neg m e =>
    if m == 0 then 0
    else if e + Nat.log2 m > 40 then (if neg then lo else hi)
    else max lo (min hi (toInt md r neg m e))

/-- VCVTFI and VCVTIF (Table 06-2). -/
def cvtFI (md : Rnd) (a : Word) : Word :=
  BitVec.ofInt 32 (convInt md 0 (-(2 ^ 31)) (2 ^ 31 - 1) (dec32 a))

def cvtIF (a : Word) : Word := rne32 (ofDyadic a.toInt 0)

/-- floor(log2 x) of a positive magnitude. -/
def floorLog2 (m : Nat) (e : Int) : Int := e + Nat.log2 m

/-! ### BF16x3 split (R123) -/

/-- hi(x) as the binary32 pattern of the BF16 value. -/
def splitHi (a : Word) : Word :=
  match dec32 a with
  | .nan => nan32
  | .inf _ => a
  | .fin .. => a &&& 0xFFFF0000#32

/-- lo(x): RNE of x - hi(x) to BF16, as the binary32 pattern. -/
def splitLo (a : Word) : Word :=
  match dec32 a with
  | .nan => 0#32
  | .inf _ => 0#32
  | .fin .. =>
    let d := fadd (dec32 a) (fneg (dec32 (splitHi a)))
    BitVec.ofNat 32 (fmtBF16.encode .rne false 0 d <<< 16)

/-! ### Special functions, correctly rounded (R142) -/

/-- Fixed-point precision, in bits, of the two transcendental functions (log entry 11). -/
def fxBits : Nat := 256

/-- ln 2 scaled by 2^256, truncated: the sum of 1 / (k 2^k). -/
def ln2Sum : Nat → Nat → Nat → Nat
  | 0, _, acc => acc
  | n + 1, k, acc => ln2Sum n (k + 1) (acc + 2 ^ (fxBits + 16) / (k * 2 ^ k))

def ln2Fx : Nat := (ln2Sum 280 1 0) >>> 16

/-- exp(y) for a fixed-point 0 ≤ y < 1, by its Taylor sum. -/
def expSum (y : Nat) : Nat → Nat → Nat → Nat → Nat
  | 0, _, _, acc => acc
  | n + 1, k, term, acc =>
    let t := (term * y) >>> fxBits
    expSum y n (k + 1) (t / k) (acc + t / k)

/-- 2^f for a fixed-point fraction 0 ≤ f < 1: a fixed-point number in [1, 2). -/
def exp2Frac (f : Nat) : Nat :=
  expSum ((f * ln2Fx) >>> fxBits) 64 1 (2 ^ fxBits) (2 ^ fxBits)

/-- VEXP2 (Table 06-4). -/
def exp2_32 (a : Word) : Word :=
  match dec32 a with
  | .nan => nan32
  | .inf true => 0#32
  | .inf false => 0x7F800000#32
  | .fin s m e =>
    if m == 0 then 0x3F800000#32
    else if floorLog2 m e ≥ 9 then (if s then 0#32 else 0x7F800000#32)
    else
      -- x scaled by 2^256 is an integer: e is at least -149
      let x : Int := signedMant s m * 2 ^ (e + fxBits).toNat
      let n : Int := x / (2 ^ fxBits : Nat)
      let f : Nat := (x % (2 ^ fxBits : Nat)).toNat
      if f == 0 then rne32 (.fin false 1 n)
      else rne32 (.fin false (2 * exp2Frac f + 1) (n - fxBits - 1))

/-- The fraction bits of log2 t for a fixed-point t in [1, 2), by squaring. -/
def log2Frac : Nat → Nat → Nat → Nat
  | 0, _, acc => acc
  | n + 1, t, acc =>
    let q := (t * t) >>> fxBits
    if 2 ^ (fxBits + 1) ≤ q then log2Frac n (q >>> 1) (2 * acc + 1) else log2Frac n q (2 * acc)

/-- VLOG2 (Table 06-4). -/
def log2_32 (a : Word) : Word :=
  match dec32 a with
  | .nan => nan32
  | .inf true => nan32
  | .inf false => 0x7F800000#32
  | .fin s m e =>
    if m == 0 then 0xFF800000#32
    else if s then nan32
    else
      let n := floorLog2 m e
      let k := Nat.log2 m
      if m == 2 ^ k then rne32 (ofDyadic n 0)
      else
        let t := (m <<< fxBits) >>> k
        let z : Int := n * (2 ^ 161 : Nat) + (2 * (log2Frac 160 t 0) + 1 : Nat)
        rne32 (ofDyadic z (-161))

/-- The integer square root, bit by bit from bit i downwards. -/
def isqrtGo (x : Nat) : Nat → Nat → Nat
  | 0, r => r
  | i + 1, r => let c := r + 2 ^ i; if c * c ≤ x then isqrtGo x i c else isqrtGo x i r

/-- VRSQRT (Table 06-4). -/
def rsqrt32 (a : Word) : Word :=
  match dec32 a with
  | .nan => nan32
  | .inf s => if s then nan32 else 0#32
  | .fin s m e =>
    if m == 0 then (if s then 0xFF800000#32 else 0x7F800000#32)
    else if s then nan32
    else
      let odd := e % 2 != 0
      let m' := if odd then 2 * m else m
      let e' := if odd then e - 1 else e
      let q := isqrtGo (2 ^ 160 / m') 82 0
      if q * q * m' == 2 ^ 160 then rne32 (.fin false q (-80 - e' / 2))
      else rne32 (.fin false (2 * q + 1) (-81 - e' / 2))

/-- VRECIP (Table 06-4). -/
def recip32 (a : Word) : Word :=
  match dec32 a with
  | .nan => nan32
  | .inf s => if s then 0x80000000#32 else 0#32
  | .fin s m e =>
    if m == 0 then (if s then 0xFF800000#32 else 0x7F800000#32)
    else
      let q := 2 ^ 100 / m
      if q * m == 2 ^ 100 then rne32 (.fin s q (-100 - e))
      else rne32 (.fin s (2 * q + 1) (-101 - e))

/-! ### Reductions (R126, R148) -/

/-- One level of the canonical tree: adjacent nodes, lower node left. -/
def pairLevel (f : Word → Word → Word) : List Word → List Word
  | a :: b :: rest => f a b :: pairLevel f rest
  | l => l

/-- The complete tree over a list, level by level. -/
def treeReduce (f : Word → Word → Word) : Nat → List Word → Word
  | 0, l => l.headD 0#32
  | n + 1, l => treeReduce f n (pairLevel f l)

/-! ### The keyed counter generator (R132) -/

/-- One round on the four words. -/
def kcgRound (k : Word) (i : Nat) (x : Word × Word × Word × Word) : Word × Word × Word × Word :=
  let x0 := x.1 + k + BitVec.ofNat 32 (i * 0x6C8E9CF5)
  let x1 := (x.2.1 ^^^ x0).rotateLeft 7
  let x2 := x.2.2.1 + x1
  let x3 := (x.2.2.2 ^^^ x2).rotateLeft 13
  let x0 := x0 + x3
  let x1 := (x1 ^^^ x0).rotateLeft 17
  let x2 := x2 + x1
  let x3 := (x3 ^^^ x2).rotateLeft 24
  (x1, x2, x3, x0)

/-- n rounds from round i on, with the seed words in order. -/
def kcgRounds (seed : List Word) : Nat → Nat → Word × Word × Word × Word → Word × Word × Word × Word
  | 0, _, x => x
  | n + 1, i, x => kcgRounds seed n (i + 1) (kcgRound (seed.getD (i % 4) 0#32) i x)

/-- The generator: seed words, 48-bit step, job core number, 16-bit stream index, 32-bit element index. -/
def kcg (seed : List Word) (step jcore stream : Nat) (elem : Word) : Word :=
  let x := kcgRounds seed 10 0
    (elem, BitVec.ofNat 32 step, BitVec.ofNat 32 ((step >>> 32) % 65536 ||| (stream % 65536) <<< 16),
      BitVec.ofNat 32 jcore)
  (x.1 + x.2.2.1) ^^^ x.2.2.2

end Sys2Proof.Machine
end

