-- ==== Sys2Proof/Machine/Accum.lean ====
section
/-!
DEFINITION. Canonical accumulation (R116 to R122, R129) and the element formats of the matrix tags (Table 04-1).
-/

namespace Sys2Proof.Machine

/-- An element type of the arrays (R101, R106 to R108). -/
inductive Elem where
  | flt (f : FFmt)
  | int (bits : Nat)
  | mxint8
  | t2
deriving DecidableEq, Repr

/-- Width of an element in bits. -/
def Elem.width : Elem → Nat
  | .flt f => 1 + f.ebits + f.pbits
  | .int b => b
  | .mxint8 => 8
  | .t2 => 2

/-- Value of an element pattern, without its block scale (R101, R107, R108, R109). -/
def Elem.decode : Elem → Nat → FVal
  | .flt f, x => f.decode x
  | .int b, x => ofDyadic (sext b x) 0
  | .mxint8, x => ofDyadic (sext 8 x) (-6)
  | .t2, x =>
    match x % 4 with
    | 0 => .fin false 0 0
    | 1 => .fin false 1 0
    | 2 => .fin true 1 0
    | _ => .nan

/-- One row of Table 04-1: weight and activation elements, rank, whether scaled, whether the accumulator is INT32. -/
structure Tag where
  w : Elem
  a : Elem
  k : Nat
  scaled : Bool
  integer : Bool
deriving DecidableEq, Repr

/-- Table 04-1, by MAT.FMT; 0xF is reserved. -/
def tagOf : Nat → Option Tag
  | 0x0 => some ⟨.flt fmtBF16, .flt fmtBF16, 1, false, false⟩
  | 0x1 => some ⟨.flt fmtFP16, .flt fmtFP16, 1, false, false⟩
  | 0x2 => some ⟨.flt fmtE4M3, .flt fmtE4M3, 2, false, false⟩
  | 0x3 => some ⟨.flt fmtE5M2, .flt fmtE5M2, 2, false, false⟩
  | 0x4 => some ⟨.flt fmtE4M3, .flt fmtE5M2, 2, false, false⟩
  | 0x5 => some ⟨.flt fmtE5M2, .flt fmtE4M3, 2, false, false⟩
  | 0x6 => some ⟨.int 8, .int 8, 2, false, true⟩
  | 0x7 => some ⟨.mxint8, .mxint8, 2, true, false⟩
  | 0x8 => some ⟨.flt fmtE4M3, .flt fmtE4M3, 2, true, false⟩
  | 0x9 => some ⟨.flt fmtE5M2, .flt fmtE5M2, 2, true, false⟩
  | 0xA => some ⟨.flt fmtE2M3, .flt fmtE2M3, 2, true, false⟩
  | 0xB => some ⟨.flt fmtE3M2, .flt fmtE3M2, 2, true, false⟩
  | 0xC => some ⟨.int 4, .int 4, 4, false, true⟩
  | 0xD => some ⟨.flt fmtE2M1, .flt fmtE2M1, 4, true, false⟩
  | 0xE => some ⟨.t2, .flt fmtE2M1, 8, true, false⟩
  | _ => none

/-- One product of an open block: rank, weight operand (element (i, q) at i * k + q), activation operand (element
(q, j) at j * k + q), and the columns that take part (R73, R95). -/
structure Prd where
  k : Nat
  w : List FVal
  a : List FVal
  cols : Word
deriving DecidableEq, Repr

/-- The exact products that accumulator (i, j) receives from the open block, in issue order. -/
def cellProducts (opn : List Prd) (i j : Nat) : List FVal :=
  opn.flatMap fun p =>
    if p.cols.getLsbD j then
      (upto p.k).map fun q => fmul (p.w.getD (i * p.k + q) .nan) (p.a.getD (j * p.k + q) .nan)
    else []

/-- The exact sum of a nonempty list of values, with IEEE specials and zero signs (R117, R120). -/
def exactSum : List FVal → FVal
  | [] => .fin false 0 0
  | v :: vs => vs.foldl fadd v

/-- The value is -0. -/
def FVal.isNegZero : FVal → Bool
  | .fin s m _ => s && m == 0
  | _ => false

/-- close_short (R119): one rounding of the accumulator plus the exact scaled block sum. The special-value lines of
R119 are those of fadd and fmul. The result is -0 only when both are -0 (R120). -/
def closeShort (acc : Word) (ps : List FVal) (sw sa : Nat) : Word :=
  if sw == 255 || sa == 255 then nan32
  else
    let s := fscale ((sw : Int) + sa - 254) (exactSum ps)
    let r := rne32 (fadd (dec32 acc) s)
    if r == 0x80000000#32 && !((dec32 acc).isNegZero && s.isNegZero) then 0#32 else r

/-- The largest floor(log2 |t|) over the nonzero finite values of a list. -/
def maxLog2 : List FVal → Option Int
  | [] => none
  | .fin _ m e :: vs =>
    if m == 0 then maxLog2 vs
    else match maxLog2 vs with
      | none => some (floorLog2 m e)
      | some l => some (max l (floorLog2 m e))
  | _ :: vs => maxLog2 vs

/-- A value's multiple of u = 2^lo, truncated toward zero. -/
def truncTo (lo : Int) : FVal → Int
  | .fin s m e => signedMant s (if lo ≤ e then m <<< (e - lo).toNat else m >>> (lo - e).toNat)
  | _ => 0

/-- close_16 (R121): the 128-bit window anchored at the largest exponent. -/
def close16 (acc : Word) (ps : List FVal) : Word :=
  let ts := dec32 acc :: ps
  match exactSum ts with
  | .nan => nan32
  | .inf s => rne32 (.inf s)
  | v =>
    match maxLog2 ts with
    | none => rne32 v
    | some e =>
      let lo := e - 120
      rne32 (ofDyadic ((ts.map (truncTo lo)).foldl (· + ·) 0) lo)

/-- The integer that an exact integer value stands for. -/
def intOf : FVal → Int
  | .fin s m _ => signedMant s m
  | _ => 0

/-- The integer close (R122). -/
def closeInt (acc : Word) (ps : List FVal) : Word :=
  acc + BitVec.ofInt 32 ((ps.map intOf).foldl (· + ·) 0)

/-- FV1 mode: every product with its own rounding (R129). -/
def fv1Add (acc : Word) (ps : List FVal) : Word :=
  ps.foldl (fun x p => rne32 (fadd (dec32 x) p)) acc

/-- One accumulator at the close of a block of the given rank; pad is how many positions retirement adds. A column
that took no part in the block stays as it was (R95). -/
def closeCell (rank : Nat) (integer : Bool) (sw sa pad : Nat) (acc : Word) (ps : List FVal) : Word :=
  if ps.isEmpty then acc
  else if integer then closeInt acc ps
  else
    let qs := ps ++ List.replicate pad (.fin false 0 0)
    if rank == 1 then close16 acc qs else closeShort acc qs sw sa

end Sys2Proof.Machine
end

