-- ==== Sys2Proof/Machine/State.lean ====
section
/-!
DEFINITION. The state of one FV3 Gaust device as plain data, the reasons a step can stop, and the state after reset.
A map (AMap) lists entries by number; an unlisted one is as the default that its docstring names. Registers that only
hold what is written, and all counters, stand in maps keyed by their byte offset (one entry a 32-bit word); every other register is
computed from the field that holds the state it shows.
-/

namespace Sys2Proof.Machine

/-! ### What is under way inside a core -/

/-- An effect of an issued operation that is not visible yet (R60, R157). -/
inductive Effect where
  /-- A long-latency result for an S register (R62). -/
  | sreg (r : Nat) (v : Word)
  /-- Lanes for a V register; whole when every lane is written (R134, R152). -/
  | vreg (r : Nat) (lanes : List (Option Word)) (poison whole : Bool)
  /-- Bits for a mask register: the bits that act, their values. -/
  | mreg (r : Nat) (act val : DWord) (poison whole : Bool)
  /-- Bytes for a scratchpad row, by a requester of the given rank (R63, R65, R158). -/
  | row (rank row : Nat) (bytes : List (Option Byte)) (poison : Bool)
  /-- A weight column (R84). -/
  | wcol (c : Nat) (line : BitVec 512) (poison : Bool)
  /-- Bits of single bytes of a row (byte, mask, value), where lanes of a packed store are masked off (R134). -/
  | rowPart (rank row : Nat) (part : List (Nat × Byte × Byte)) (poison : Bool)
  /-- The scrubber's write-back of a row: fresh check bits, poison if it was uncorrectable (R170). -/
  | scrubbed (row : Nat) (ue : Bool)
  /-- The state of a segment, seen by later checks (R162). -/
  | seg (n st : Nat)
deriving DecidableEq, Repr

/-- An effect with the cycle from which it is visible: the core's pipeline clock when pipe, its bay's cycle count
otherwise. A read in FV2 mode from cycle gap on is held until due (R212). serial orders it for fences and posts; sub
is its place within the rank of its row write (R63), and 3 for a vector result bound for an S register. -/
structure Due where
  eff : Effect
  pipe : Bool
  due : Nat
  gap : Nat
  serial : Nat
  sub : Nat
deriving DecidableEq, Repr

/-- A wait that a party holds at a semaphore (R255, R261, R263): 0 sent, 1 released, 2 answered RETRY, 3 timed out. -/
structure Wait where
  addr : Nat
  count : Nat
  sub : Bool
  since : Nat
  deadline : Nat
  stage : Nat
  resendAt : Nat
deriving DecidableEq, Repr

/-- Scalar unit (R54, R57): S registers and loop counters (default 0), latched halves of RDSYS. -/
structure Scalar where
  s : AMap Word
  lc : AMap Word
  tickHi : Word
  stepHi : Word
deriving DecidableEq, Repr

/-- Bundle issue (R49, R50, R58, R64, R66). -/
structure Issue where
  /-- Pipeline clock: cycles in which the pipeline advanced. -/
  clk : Nat
  /-- Index of the next bundle; 2,048 past the end. -/
  next : Nat
  /-- The next bundle is a delay bundle; after it issue goes on at target. -/
  delay : Bool
  target : Nat
  /-- Pipeline clock from which the next bundle may issue (R49). -/
  eligible : Nat
  /-- CORE_PC. -/
  pcIndex : Nat
  pcSrc : Bool
  pcDelay : Bool
  /-- An attempt was made in this cycle. -/
  tried : Bool
  /-- The token meter grants the core this cycle (R66, R362). -/
  granted : Bool
  /-- The pipeline is frozen in this cycle (R64). -/
  frozen : Bool
  /-- Requests of the waiting bundle already served (rank, row); log entry 12. -/
  served : List (Nat × Nat)
  /-- Scratchpad ports in use this cycle: write port, bank, row, rank (R156). -/
  ports : List (Bool × Nat × Nat × Nat)
  /-- Engines (4 the landing queue) whose row took its turn at the landing port this cycle (R242). -/
  landers : List Nat
  /-- Rows that were read this cycle: all reads of one row in one cycle are one read (R156). -/
  sensed : List Nat
  /-- The core is stopped by a violation (R67, R372). -/
  stopped : Bool
  /-- Bay cycle in which the fault registers were logged (R284). -/
  faultCyc : Nat
  /-- Semaphore wait of the bundle at the issue point. -/
  wait : Option Wait
  /-- Tick since which each of the limited causes 1 to 4 holds the bundle, by cause (R263, R281, R283). -/
  holds : AMap Nat
  /-- Tokens that the operations of this cycle cost so far (R66). -/
  tok : Nat
  /-- Next serial number of a tracked operation. -/
  serial : Nat
  /-- The bay's crossing holds its writer towards the spine in this cycle; it gives no beat from the spine (R357). -/
  pressed : Bool
  noBeat : Bool
deriving DecidableEq, Repr

/-- One accumulator bank (R88 to R91): state (Table 04-5), the open block and the accumulators, row-major. -/
structure Bank where
  st : Nat
  int : Bool
  poison : Bool
  phase : Nat
  fmt : Nat
  /-- Tag that opened the last closed block (Table 04-8). -/
  lastFmt : Nat
  blocks : Nat
  rank : Nat
  scaled : Bool
  sw : List Nat
  sa : List Nat
  opn : List Prd
  acc : List Word
  /-- Pipeline clock from which its last product is visible (R82). -/
  vis : Nat
deriving DecidableEq, Repr

/-- The scale latch and half of one array, and its last product cycle (R79, R97). -/
structure Latch where
  w : List (Nat × Nat)
  a : List (Nat × Nat)
  half : Nat
  poison : Bool
  last : Option Nat
deriving DecidableEq, Repr

/-- One entry of the finished-tile queue (Table 06-1). -/
structure FtqEntry where
  st : Nat
  int : Bool
  poison : Bool
  group : Nat
  data : List Word
deriving DecidableEq, Repr

/-- A retirement that waits to move: bank 0 to 3, queue entry (R92, R93). -/
structure Ret where
  bank : Nat
  entry : Nat
deriving DecidableEq, Repr

/-- Arrays, weight stage and finished-tile queue. -/
structure MatUnit where
  /-- Banks 0 to 3 as R99 numbers them; default idle. -/
  banks : AMap Bank
  latch : AMap Latch
  /-- Weight columns, default 0; poisoned columns; latent ECC errors keyed column * 8 + group (1 single, 2 double). -/
  ws : AMap (BitVec 512)
  wsPoison : AMap Bool
  wsErr : AMap Nat
  ftq : AMap FtqEntry
  head : Nat
  tail : Nat
  retq : List Ret
  /-- The retirement that moves and the clock at which its last element has moved. -/
  moving : Option (Ret × Nat)
  /-- Clock from which the queue is free to move the next one. -/
  freeAt : Nat
deriving DecidableEq, Repr

/-- Vector engine registers (R134, R152): 64 lanes each, default 0. -/
structure VecUnit where
  v : AMap (List Word)
  m : AMap DWord
  vPoison : AMap Bool
  mPoison : AMap Bool
  lastF : Option Nat
deriving DecidableEq, Repr

/-- Scratchpad (R155 to R161): bytes (unlisted 0), poisoned rows, latent ECC errors keyed row * 8 + group, segment
states (default LANDED), scrubber, spare rows in use per bank. -/
structure Scratch where
  mem : List Host.Cell
  poison : AMap Bool
  err : AMap Nat
  seg : AMap Nat
  scrubPos : Nat
  scrubLeft : Nat
  /-- A scrub read is presented until its port serves it (R170). -/
  scrubReq : Bool
  /-- Row and bay cycle of each scrub read whose write-back is pending, with what it writes (R170). -/
  scrubWb : List (Nat × Nat × Bool)
  spare : AMap Nat
deriving DecidableEq, Repr

/-- One queued local-memory operation (R164 to R168). -/
structure LmOp where
  lop : Nat
  row : Nat
  src : Nat
  len : Nat
  dstr : Nat
  sstr : Nat
  sem : Nat
  post : Bool
  chk : Bool
  fv2 : Bool
  serial : Nat
  issued : Nat
  started : Bool
  rd : Nat
  wr : Nat
  /-- Rows read and not yet written: cycle of the write, contents, poison. -/
  buf : List (Nat × BitVec 512 × Bool)
  /-- Cycle from which the last write is visible, once all rows are written (or the action is done). -/
  visAt : Option Nat
  /-- Post sent to the own semaphore. -/
  posted : Bool
  heldSince : Option Nat
deriving DecidableEq, Repr

/-- A reader of scratchpad rows in progress (R177, R191, R197, R199, R224). -/
structure Reader where
  /-- 0 STLD, 1 chain rows, 2 tap table, 3 gather entry, 4 SPLD. -/
  kind : Nat
  eng : Nat
  row : Nat
  n : Nat
  /-- Start the stencil when loaded (STLDGO). -/
  go : Bool
  got : List (BitVec 512 × Bool)
  /-- Cycle in which the last row was served. -/
  lastAt : Nat
  heldSince : Option Nat
deriving DecidableEq, Repr

/-! ### Stream engines -/

/-- The transfer instruction under execution (R230 to R233). -/
structure Xfer where
  i : Nat
  exec : Nat
  rows : List (BitVec 512 × Bool)
  heldSince : Option Nat
deriving DecidableEq, Repr

/-- One stream engine (R222 to R240). -/
structure Engine where
  run : Nat
  pc : Nat
  ar : AMap Nat
  bind : AMap Nat
  lp : AMap Nat
  p0 : Nat
  p1 : Nat
  rate : Nat
  burst : Nat
  bucket : Nat
  tagq : Nat
  /-- Bay cycle in which the next instruction may execute. -/
  nextAt : Nat
  /-- PNL_STEP that the bundle of its SGO saw (R305). -/
  tstep : Nat
  xfer : Option Xfer
  wait : Option Wait
  fence : Bool
  /-- Segments held (R243). -/
  holds : List Nat
  /-- Rows of index or page words read last, of this execution (R233). -/
  wordRows : List (Nat × BitVec 512 × Bool)
  execs : Nat
deriving DecidableEq, Repr

/-- A line under way, one per tag (R238 to R246). stage: 0 requested, 1 at its
destination, 2 returned or acknowledged, 3 all rows landed, 4 answered with an error. -/
structure Line where
  tag : Nat
  eng : Nat
  exec : Nat
  write : Bool
  mem : Nat
  row : Nat
  data : List (BitVec 512 × Bool)
  stage : Nat
  landed : Nat
  visAt : Nat
  merged : Bool
  at0 : Nat
  /-- Tick of the request (R291); the source or the destination refused the request (R247). -/
  tick0 : Nat
  bad : Bool
  /-- For SWRITE lines: serial of the execution's last request, once it executed (R31). -/
  serial : Option Nat
  /-- Bay cycle in which it returned (R242). -/
  back : Nat
deriving DecidableEq, Repr

/-- What the last row of an external write brings about when it is visible (R246, R276). -/
inductive ExtEnd where
  | none
  /-- Acknowledge the line with this tag of that core of this device. -/
  | ackLocal (core tag : Nat)
  /-- Answer WR_ACK to a device with its tag and address. -/
  | ackRemote (coord tag addr : Nat)
  /-- A record of mailbox m has landed, whole size in bytes; poster serial of the sending core, if on this device. -/
  | record (m size : Nat) (src : Option (Nat × Nat)) (answer : Option (Nat × Nat × Nat))
deriving DecidableEq, Repr

/-- One row in the landing queue (R171). -/
structure ExtRow where
  row : Nat
  bytes : List (Option Byte)
  poison : Bool
  fin : ExtEnd
  /-- Bay cycle in which it arrived; the core that sent it, 2,048 + coordinate for another device. -/
  came : Nat
  sender : Nat
deriving DecidableEq, Repr

/-- An external write whose rows have landed but are not all visible (R246, R276). -/
structure ExtWait where
  fin : ExtEnd
  visAt : Nat
deriving DecidableEq, Repr

/-! ### Stencils -/

/-- Matrix slot (Table 03-3). -/
structure MatSlot where
  mop : Nat
  fmt : Nat
  axis : Nat
  bank : Nat
  en : Nat
  wsa : Nat
  a0 : Nat
  a1 : Nat
  maux : Nat
deriving DecidableEq, Repr

/-- Vector slot (Table 03-3). -/
structure VecSlot where
  vop : Nat
  vd : Nat
  va : Nat
  vb : Nat
  vc : Nat
  msk : Nat
  men : Bool
  spa : Nat
  fmt : Nat
  vaux : Nat
deriving DecidableEq, Repr

/-- One operation of the front (R186, R187, R201, R202), with the masks that are written before it where it is the first
product of a glaze pass (R203). -/
structure FrontOp where
  mat : MatSlot
  masks : Option (Nat × Nat)
deriving DecidableEq, Repr

/-- The front (R178 to R203). -/
structure Front where
  /-- The descriptor; row bases of the generators W, A, O, P at the first iteration; counts of the levels. -/
  d : Nat
  base : List Int
  cnt : List Nat
  /-- Iteration vector of the tile step under way. -/
  it : List Nat
  /-- Its operations that have not issued. -/
  ops : List FrontOp
  /-- A tile step that is not expanded yet follows; it is the first one. -/
  more : Bool
  first : Bool
  /-- The masks of the next operation are written (R203). -/
  masked : Bool
  /-- Pipeline clock of its last operation (R188). -/
  lastOp : Nat
  /-- Products of the tile step issued. -/
  p : Nat
  /-- Bank of the next tile or leaf (R187). -/
  bank : Nat
  /-- Tap offsets once read (R191). -/
  taps : Option (List Int)
  /-- First row of H_X, gather entries read so far, entries of the tile step to come (R199). -/
  xrow : Nat
  entryNo : Nat
  ents : List Nat
  /-- UROW of the previous glaze pass (R201). -/
  lastU : Option Nat
  /-- A product has issued (R198). -/
  began : Bool
  /-- Tick since which R187 holds the next operation (R281). -/
  heldSince : Option Nat
deriving DecidableEq, Repr

/-- One retired tile for the epilogue stream: row bases of O, P and A, whether a head precedes it (R193, R194). -/
structure TileJob where
  obase : Int
  pbase : Int
  abase : Int
  head : Bool
deriving DecidableEq, Repr

/-- One micro-op instance (R193, R195): the number of its group, its vector slot. -/
structure Inst where
  grp : Nat
  vec : VecSlot
deriving DecidableEq, Repr

/-- The epilogue stream of one stencil (R179, R195). -/
structure Epi where
  d : Nat
  /-- For EPILOGUE: row bases at the first iteration, counts, iteration to come, and whether there is one. -/
  base : List Int
  cnt : List Nat
  it : List Nat
  more : Bool
  /-- Tiles whose groups are not all generated, oldest first, with the next group of the first one. -/
  jobs : List TileJob
  grp : Nat
  /-- The head at the beginning is still to come. -/
  head : Bool
  /-- Groups generated so far; instances that have not issued. -/
  grpNo : Nat
  window : List Inst
  /-- No further tile will come; serial of the first operation after its front. -/
  closed : Bool
  frontEnd : Nat
  /-- Address of the completion post (R180). -/
  post : Option Nat
deriving DecidableEq, Repr

/-- A stencil whose streams have issued everything and whose completion is awaited (R180): address of its post, serial
numbers of the chain's first operation, of the first operation after its front, and of the first one after its epilogue
stream. -/
structure StnDone where
  post : Option Nat
  since : Nat
  front : Nat
  serial : Nat
deriving DecidableEq, Repr

/-- The stencil sequencer. phase: 0 IDLE, 1 LOADING, 2 WAITING, 3 RUNNING (Table 08-11). -/
structure Stencil where
  phase : Nat
  /-- The sequencer is the issue source (R51). -/
  active : Bool
  /-- Bay cycle from which the next front may start. -/
  frontAt : Nat
  /-- Bay cycle from which the registers hold the descriptor loaded last (R177). -/
  regsAt : Nat
  /-- Pipeline clock from which a front that has issued everything counts as ended (R188). -/
  endAt : Option Nat
  /-- Serial number of the first operation that the chain issued. -/
  serial0 : Nat
  front : Option Front
  wait : Option Wait
  /-- Epilogue streams in chain order; the first one issues (R197). -/
  epis : List Epi
  done : List StnDone
  /-- Scratchpad address at which the bundle under attempt is held on segment state. -/
  heldAddr : Nat
deriving DecidableEq, Repr

/-! ### Panels, queues, routes -/

/-- A panel-end or stencil-completion add that waits for earlier effects (R31, R180): address, serial. -/
structure Post where
  addr : Nat
  serial : Nat
deriving DecidableEq, Repr

/-- Panel walk (R29 to R41). -/
structure Panel where
  index : Nat
  phase : Nat
  late : Bool
  base : Nat
  step : Nat
  wraps : Nat
  lastStart : Nat
  wait : Option Wait
  /-- Tick at which the previous panel ended, or at which the core acted on START (R38). -/
  prevEnd : Nat
  /-- Tick at which the semaphore condition held. -/
  semAt : Nat
  /-- FLOAT of the last timed panel, and its planned start; whether a timed panel has run. -/
  lastFloat : Nat
  lastPlan : Option Nat
  /-- Tick at which the last timed panel ended, until the float consumed is known. -/
  lastEnd : Option Nat
  startCyc : Nat
  tokOver : Bool
  /-- TOKENS of the panel in which the current cycle lies. -/
  tokLim : Option Nat
  posts : List Post
  /-- The wait for the next panel is a window that R34 offers to sanding, with neither a pass nor a skip so far. -/
  window : Bool
deriving DecidableEq, Repr

/-- An inbound queue (R269, R271). -/
structure InQ where
  msgs : List (List Word)
  head : Nat
  closed : Bool
  src : Option (Nat × Nat)
  slots : AMap Nat
  heldSince : Option Nat
deriving DecidableEq, Repr

/-- An outbound route (R268, R275): state (Table 11-9), credit, write offset, records sent. -/
structure Route where
  st : Nat
  credit : Nat
  woff : Nat
  seq : Nat
deriving DecidableEq, Repr

/-- An inbound mailbox (R273, R277). -/
structure Mbx where
  roff : Nat
  closed : Bool
  landed : Nat
  /-- Ring offsets of the headers of records landed and not yet freed (Table 16-2). -/
  heads : List Nat
deriving DecidableEq, Repr

/-- A semaphore update or wait in the sync port (R262): kind 0 add, 1 wait, 2 wait-and-subtract. -/
structure SyncOp where
  kind : Nat
  addr : Nat
  amount : Int
  fence : Bool
  serial : Nat
deriving DecidableEq, Repr

/-- A mailbox record that MB.SEND built and whose rows the core still reads (R275). -/
structure MbOut where
  route : Nat
  row : Nat
  n : Nat
  head : BitVec 128
  woff : Nat
  got : List (BitVec 512 × Bool)
  serial : Nat
  heldSince : Option Nat
deriving DecidableEq, Repr

/-- Everything of one core. -/
structure Core where
  regs : AMap Nat
  bm : List Host.Cell
  sc : Scalar
  is : Issue
  mx : MatUnit
  ve : VecUnit
  sp : Scratch
  lm : List LmOp
  /-- Cycle after the last row access of the operation completed last. -/
  lmFree : Nat
  readers : List Reader
  inflight : List Due
  se : AMap Engine
  lines : List Line
  ext : List ExtRow
  extWait : List ExtWait
  stn : Stencil
  pnl : Panel
  qs : AMap InQ
  rts : AMap Route
  mbs : AMap Mbx
  sync : List SyncOp
  mbOut : List MbOut
  /-- Sanding pass in progress: bay cycle or tick data (R379). -/
  sand : Option Nat
  /-- The halt has reached this core (R35). -/
  halted : Bool
  /-- Tick of the last completed sanding pass (SAND_LAST). -/
  sandLast : Nat
deriving DecidableEq, Repr

/-! ### The device around the cores -/

/-- An operation at a semaphore home (R259): kind 0 update by amount, 1 wait, 2 wait and subtract. party as Table
11-9, 8 for an operation no party waits for; rem names a remote requester (coordinate, tag). -/
structure SemMsg where
  core : Nat
  party : Nat
  rem : Option (Nat × Nat)
  off : Nat
  kind : Nat
  amount : Int
  deadline : Nat
  serial : Nat
deriving DecidableEq, Repr

/-- An answer on its way to a party of this device: 0 release, 1 TIMEOUT, 2 RETRY. home: the place that answers, 2,048 +
coordinate for another device (R16). -/
structure SemAns where
  home : Nat
  core : Nat
  party : Nat
  ans : Nat
deriving DecidableEq, Repr

/-- What travels between cores of the device on the lath (R270, R272, R275, R277). -/
inductive LathMsg where
  | msg (src dst q : Nat) (words : List Word) (serial : Nat)
  | credit (dst r : Nat)
  | close (dst r : Nat)
  | record (src dst m : Nat) (rows : List ExtRow) (serial : Nat)
  | mbCredit (dst r bytes : Nat)
deriving DecidableEq, Repr

/-- An event in the recorder's queue (Table 18-8): code, source core (none: the device), class if it is an error,
payload words, tick. -/
structure Ev where
  code : Nat
  core : Option Nat
  cls : Option Nat
  payload : List Nat
  tick : Nat
deriving DecidableEq, Repr

/-- An inbound fabric transaction: opcode, header, data, poison marks, the operands beside them, what the memory
controller that it reaches finds. -/
structure Inbound where
  op : Nat
  h : FabHeader
  data : List Byte := []
  poison : List Bool := []
  x : List Nat := []
  ecc : EccFind := .clean
deriving DecidableEq, Repr

/-- What the device sends out, oldest first. -/
inductive Out where
  /-- A reply frame (Table 18-1): command, tag, status, ARG0, ARG1, payload, session counter when it carries a tag. -/
  | reply (cmd tag status arg0 arg1 : Nat) (payload : List Byte) (counter : Option Nat)
  /-- The error response to a register write or another access (Table 18-2 code), with the address. -/
  | error (code addr : Nat)
  /-- The value that a register read returns outside a READ frame. -/
  | value (addr : Nat) (v : Nat)
  /-- A fabric transaction: port, opcode, source and destination coordinate, tag, address, PID, EPOCH, data (the length
  is its number of bytes), poison, and what Table 14-4 names beside them: RD_DATA the ECC result (0 clean, 1 corrected, 2
  uncorrectable); SEM_OP kind, amount, deadline; ERR the code; SEM_DONE 1 for a timeout; MBX_CREDIT the bytes; HEARTBEAT
  LOCKED, t3 and t4 (its address is t1); MBX_REC the marks of its units; JOB_FAULT serial, reason and tick. -/
  | fabric (port op src dst tag addr pid epoch : Nat) (data : List Byte) (poison : Bool) (x : List Nat)
  /-- A transaction of another device that passes through: port, opcode, header, data, poison, the other operands. -/
  | transit (port op : Nat) (h : FabHeader) (data : List Byte) (poison : List Bool) (x : List Nat)
deriving DecidableEq, Repr

/-- The event recorder (R418 to R422): stored words, default 0, and the queue before it. -/
structure Recorder where
  words : AMap Nat
  wptr : Nat
  last : Nat
  full : Bool
  frozen : Bool
  records : Nat
  lost : Nat
  frozenCnt : Nat
  q : List Ev
deriving DecidableEq, Repr

/-- Screed time (R21, R22, R342). slew is the correction still to make in whole ticks. -/
structure Screed where
  now : Nat
  running : Bool
  epoch : Nat
  locked : Bool
  alignErr : Bool
  refPort : Nat
  slew : Int
  lastSlew : Nat
  good : Nat
  ns : Nat
deriving DecidableEq, Repr

/-- The first fault of a job (R372, Table 18-7), the device's nanosecond in which it arose, and for a core's event its bay and
the cycle of the bay. -/
structure FaultInfo where
  reason : Nat
  origin : Nat
  core : Nat
  addr : Nat
  ns : Nat
  cyc : Option (Nat × Nat)
deriving DecidableEq, Repr

/-- The image that is being loaded (R395, R411); env: it has an envelope. -/
structure Image where
  env : Bool
  signed : Bool
  enc : Bool
  link : Bool
  length : Nat
  digest : BitVec 256
  bytes : Nat
  body : List Byte
  buf : List Byte
deriving DecidableEq, Repr

/-- A control-port read of scratchpads in progress (R171): next offset in the SP space, bytes to come, bytes read, offset at
which poison begins. -/
structure SpRead where
  x : Nat
  left : Nat
  got : List Byte
  bad : Option Nat
deriving DecidableEq, Repr

/-- Control port, device state and the current job (Tables 18-4 to 18-7). -/
structure Ctl where
  st : Nat
  img : Nat
  endCode : Nat
  nextSeg : Nat
  image : Option Image
  lanes : Nat
  q : List (Nat × Frame)
  /-- The memory accesses of the first waiting request last until this tick (R295). -/
  busy : Option Nat
  /-- The scratchpad rows of the first waiting request, a READ, as far as they are read (R171). -/
  sp : Option SpRead
  fault : Option FaultInfo
  serial : Nat
  halt : Bool
  haltBy : Nat
  refuse : Nat
  rcore : Nat
  rindex : Nat
  bootFail : Bool
  bootStep : Nat
  bootCause : Nat
  bootMs : Nat
deriving DecidableEq, Repr

/-- A fabric port (Tables 14-2, 14-9): state, DISABLED reason, FAB_PORT_CTRL.DISABLE, what the manifest lists (class,
neighbour's coordinate, port, identity, generation), generation and data lanes in use, what IDENT found, lane on the
spare (31 none, 30 where the spare itself failed), lane steered onto it last (31 none), t1 and arrival of the last
heartbeat received (in 1/16 tk), tick of the last one received, heartbeats counted missing since, tick of the last one sent (both may lie before tick 0: log entry 107), whether the neighbour says it is
LOCKED; cable length in metres; nanosecond of entry to DETECT (R325); trained again since the last START (R347); symbols
corrected in the last millisecond, as (nanosecond, lane, number) (R327); payload bytes sent and received since training,
which number the groups, and the last link flit sent: sequence number, acknowledgement, CRC-64 (R320); requests in the REQ buffer (R338);
transactions that wait at the output, with their input (0 the fabric engine, 1 + q port q) (R327, R335). -/
structure Port where
  st : Nat
  reason : Nat
  disable : Bool
  listed : Bool
  cls : Nat
  nbr : Nat
  nbrPort : Nat
  nbrId : BitVec 256
  nbrGen : Nat
  gen : Nat
  lanes : Nat
  foundCoord : Nat
  foundPort : Nat
  spare : Nat
  lastLane : Nat
  hbT1 : Nat
  hbT4 : Nat
  hbSeen : Int
  hbMissed : Nat
  hbSent : Int
  nbrLocked : Bool
  cable : Nat
  detectAt : Nat
  again : Bool
  fec : List (Nat × Nat × Nat)
  txBytes : Nat
  rxBytes : Nat
  link : Option (Nat × Nat × BitVec 64)
  reqBuf : List Inbound
  txq : List (Nat × Nat × Out)
deriving DecidableEq, Repr

/-- An outbound request that waits for its response (R338): kind 0 line (x the tag), 1 wait (x the party), 2 update
(x its serial), 3 mailbox record (x its serial); party: who sent it, numbered as in SemMsg. -/
structure FabReq where
  tag : Nat
  core : Nat
  party : Nat
  kind : Nat
  x : Nat
  deadline : Nat
deriving DecidableEq, Repr

/-- The fabric engine and its ports (14_fabric.md). gens: the generation of every device that the manifest does not list as
FV3, by coordinate (R329); weights: those of the port outputs' inputs, keyed output port * 16 + input port (R344). -/
structure Fab where
  coord : Nat
  root : Nat
  dims : Nat
  gens : AMap Nat
  weights : AMap Nat
  manOk : Bool
  ports : AMap Port
  /-- Tick from which every listed port may be ACTIVE, for the time root (R342). -/
  upAt : Nat
  inb : Nat
  inbPeak : Nat
  seen : List (Nat × Nat × Nat)
  reqs : List FabReq
  nextTag : Nat
  theta : Nat
  delay : Nat
deriving DecidableEq, Repr

/-- An open merge entry of an HBM controller (R248): line, last tick at which it takes a joiner, contents, poison and ECC
result once the line is read (got), joiners as (core, tag, address), a remote device standing as core 2,048 + its
coordinate. -/
structure Merge where
  line : Nat
  upto : Nat
  got : Bool
  data : List Byte
  poison : Bool
  ecc : Nat
  joiners : List (Nat × Nat × Nat)
  /-- No write to the line has arrived since. -/
  live : Bool
  /-- Number of joiners served. -/
  served : Nat
deriving DecidableEq, Repr

/-- A request that has reached a memory controller and waits there: its bank is in a refresh window, an earlier one of its
source waits, or the trackers are full (R245, R248, R295, R301, R336). who: (core, tag), a remote device standing as core
2,048 + its coordinate; write: the data and its poison. -/
structure Held where
  who : Nat × Nat
  addr : Nat
  write : Option (List Byte × Bool)
  ecc : EccFind
deriving DecidableEq, Repr

/-- The memory tiers: HBM bytes by (stack, GiB, stack line) place, DDR5 bytes by offset (unlisted 0, R299, R302);
poisoned lines; corrected errors by page (R298); merge entries, oldest first; ticks until which a refresh window is
open, by stack * 64 + pseudo-channel and by channel * 4 + bank set (R295, R301); refresh rates reported and not yet
in effect, with the tick of the report (R296). -/
structure Tiers where
  hbm : List Host.Cell
  ddr : List Host.Cell
  hbmPoison : AMap Bool
  ddrPoison : AMap Bool
  pageCe : AMap Nat
  merges : List Merge
  held : List Held
  hbmWin : AMap Nat
  ddrWin : AMap Nat
  refNext : AMap (Bool × Nat)
deriving DecidableEq, Repr

/-- One bay (R361 to R366): cycle count of its clock, ceiling of its token meter, rotor, frequency step, pending
step, cores that have not acknowledged it, cause of the last decision, quiet intervals in a row (R363), bay cycle of the
last timed-panel start (R365). -/
structure Bay where
  cyc : Nat
  ceil : Nat
  rotor : Nat
  step : Nat
  pstep : Option Nat
  unacked : List Nat
  cause : Nat
  quiet : Nat
  timedAt : Option Nat
deriving DecidableEq, Repr

/-- One clock region (R354 to R366): frequency now in MHz, last temperature, intervals without a reading, whether
the supply droops, lowest frequency and smallest margin since cleared, warning cycles of the interval (R360), frequencies of
the last 1,000 tk, newest first, each with the tick from which it holds (Table 15-6). -/
structure Region where
  mhz : Nat
  temp : Nat
  miss : Nat
  droop : Bool
  fmin : Nat
  margin : Nat
  warn : Nat
  freqs : List (Int × Nat)
deriving DecidableEq, Repr

/-- The crossing of a bay (R357 to R359): offsets into and out of the bay, drift not yet a whole cycle in 1/1,000
cycle, PLUMBED, FAIL; it re-centres; cycles for which the bay's writer and the bay's reader are still to be held. -/
structure Crossing where
  ofsIn : Nat
  ofsOut : Nat
  accIn : Int
  accOut : Int
  plumbed : Bool
  fail : Bool
  recentre : Bool
  outHold : Nat
  inHold : Nat
deriving DecidableEq, Repr

/-- The security block (R389 to R404). Keys stand as present or absent; measurements 0 to 6; the debug challenge,
whether it waits for its response, and when it was made (R401). -/
structure Sec where
  idk : Bool
  dtk : Bool
  owner : Option (BitVec 1088)
  ddrKeys : Bool
  jobKey : Bool
  partKey : Bool
  linkKeys : Bool
  /-- A session is open: the lowest counter that it accepts (R398). -/
  session : Option Nat
  zeroised : Bool
  debugOpen : Bool
  boot : Nat
  primerB : Bool
  fwB : Bool
  primerSvn : Nat
  fwSvn : Nat
  meas : List (BitVec 256)
  jobSigned : Bool
  jobEnc : Bool
  chal : BitVec 256
  chalLive : Bool
  chalAt : Nat
  tamper : Nat
  trips : Nat
deriving DecidableEq, Repr

/-- Patch tables (R374 to R378): bad cores of each bay as applied at the last boot, as a 64-bit mask; the physical
cores that serve, lowest first; the records of the module flash; the last power-up's environment; serials of the records that
the device wrote, with the nanosecond of the finding; serials of those that the last power loss may have torn (R376). -/
structure Patch where
  out : AMap Nat
  map : AMap (List Nat)
  flash : List PatchRec
  env : Option BootEnv
  fresh : List (Nat × Nat)
  mayTear : List Nat
deriving DecidableEq, Repr

/-- Sanding outside the cores (R381, R384): running pass of a spare core by bay * 8 + number with its start cycle;
memories under a march as bits 0 to 2; tick at which a core was last reported overdue; tick of the first lock (R383). -/
structure Sand where
  spares : AMap Nat
  march : Nat
  fail : Bool
  overdue : AMap Nat
  since : Nat
deriving DecidableEq, Repr

/-- The device. -/
structure State where
  /-- MODEL'S OWN: commands that wait, first in first out. -/
  pending : List Instr
  /-- MODEL'S OWN: what the device has sent, oldest first. -/
  out : List Out
  /-- MODEL'S OWN: counter that the free values are drawn with (log entry 4). -/
  free : Nat
  /-- Logical cores; unlisted ones are as dflt. -/
  cores : AMap Core
  dflt : Core
  bays : AMap Bay
  /-- Registers of the device window that hold what is written or counted, by offset. -/
  dregs : AMap Nat
  /-- Semaphore values by SYNC offset, default 0 (R253). -/
  sem : AMap Word
  /-- Operations that arrived in this cycle of their home, updates left over from earlier cycles, and parked waits, by
  home place; answers on their way (R259, R260). -/
  semIn : AMap (List SemMsg)
  semLate : AMap (List SemMsg)
  semPark : AMap (List SemMsg)
  semAns : List SemAns
  lath : List LathMsg
  er : Recorder
  scr : Screed
  ctl : Ctl
  fab : Fab
  mem : Tiers
  regions : AMap Region
  xng : AMap Crossing
  /-- Signed counters of the arbitration points, for the inputs that request, by point * 64 + input (R343). -/
  arb : AMap Int
  sec : Sec
  pat : Patch
  sand : Sand
  /-- The manifest expansion in progress: bank and entry count (R311, R315). -/
  expand : Option (Nat × Nat)
  /-- Rail sequencer (R428): 0 ready, 1 waits 1 s to retry, 2 off until the input is removed. -/
  rails : Nat
deriving DecidableEq, Repr

/-- MODEL'S OWN: what a bundle or command cannot name. -/
inductive Fault where
  /-- The command names a core, engine, bay, port, stack, channel, region or place that the device does not have.
  Raised by every meaning that names a unit. Safe: the machine stops where no hardware can be meant. -/
  | noSuchUnit
deriving DecidableEq, Repr

/-- Refusals. -/
inductive Refusal where
  /-- Raised by exec for a command that has no meaning in the model. Safe. -/
  | notModelled (mnemonic : String)
deriving DecidableEq, Repr

/-! ### Reset (Tables 03-14 to 20-5: the Reset columns; log entry 3 where they give none) -/

def Scalar.init : Scalar := ⟨[], [], 0#32, 0#32⟩

def Issue.init : Issue :=
  { clk := 0, next := 0, delay := false, target := 0, eligible := 0, pcIndex := 0, pcSrc := false, pcDelay := false,
    tried := false, granted := true, frozen := false, served := [], ports := [], landers := [],
    sensed := [], stopped := false, faultCyc := 0, wait := none,
    holds := [], tok := 0, serial := 0, pressed := false, noBeat := false }

def Bank.init : Bank :=
  { st := 0, int := false, poison := false, phase := 0, fmt := 0, lastFmt := 0, blocks := 0, rank := 0, scaled := false, sw := [],
    sa := [], opn := [], acc := List.replicate 1024 0#32, vis := 0 }

/-- Scales 2^0 in both halves (R88). -/
def Latch.init : Latch :=
  { w := List.replicate 32 (127, 127), a := List.replicate 32 (127, 127), half := 0, poison := false, last := none }

def FtqEntry.init : FtqEntry := ⟨0, false, false, 0, List.replicate 1024 0#32⟩

def MatUnit.init : MatUnit :=
  { banks := [], latch := [], ws := [], wsPoison := [], wsErr := [], ftq := [], head := 0, tail := 0, retq := [],
    moving := none, freeAt := 0 }

def VecUnit.init : VecUnit := ⟨[], [], [], [], none⟩

def Scratch.init : Scratch := ⟨[], [], [], [], 0, 0, false, [], []⟩

def Engine.init : Engine :=
  { run := 0, pc := 0, ar := [], bind := [], lp := [], p0 := 0, p1 := 0, rate := 0, burst := 255, bucket := 0,
    tagq := 16, nextAt := 0, tstep := 0, xfer := none, wait := none, fence := false, holds := [], wordRows := [],
    execs := 0 }

def Stencil.init : Stencil := ⟨0, false, 0, 0, none, 0, none, none, [], [], 0⟩

def Panel.init : Panel :=
  { index := 0, phase := 0, late := false, base := 0, step := 0, wraps := 0, lastStart := 0, wait := none,
    prevEnd := 0, semAt := 0, lastFloat := 0, lastPlan := none, lastEnd := none, startCyc := 0, tokOver := false,
    tokLim := none, posts := [], window := false }

def InQ.init : InQ := ⟨[], 0, false, none, [], none⟩

def Route.init : Route := ⟨0, 0, 0, 0⟩

def Mbx.init : Mbx := ⟨0, false, 0, []⟩

def Core.init : Core :=
  { regs := [(0x5000, 0x100)], bm := [], sc := .init, is := .init, mx := .init, ve := .init, sp := .init, lm := [],
    lmFree := 0, readers := [], inflight := [], se := [], lines := [], ext := [], extWait := [], stn := .init,
    pnl := .init, qs := [], rts := [], mbs := [], sync := [], mbOut := [], sand := none, halted := false,
    sandLast := 0 }

def Bay.init : Bay := ⟨0, 2730, 0, 0, none, [], 0, 0, none⟩

def Region.init : Region := ⟨0, 0, 0, false, 0xFFFF, 0xFFFF, 0, []⟩

def Crossing.init : Crossing := ⟨0, 0, 0, 0, false, false, false, 0, 0⟩

def Tiers.init : Tiers := ⟨[], [], [], [], [], [], [], [], [], []⟩

/-- IDK and DTK are made at manufacture (R389); no owner is enrolled then (R399). -/
def Sec.init : Sec :=
  { idk := true, dtk := true, owner := none, ddrKeys := false, jobKey := false, partKey := false, linkKeys := false,
    session := none, zeroised := false, debugOpen := false, boot := 0, primerB := false, fwB := false, primerSvn := 0,
    fwSvn := 0, meas := List.replicate 7 0#256, jobSigned := false, jobEnc := false, chal := 0#256, chalLive := false, chalAt := 0,
    tamper := 0, trips := 0 }

def Patch.init : Patch := ⟨[], [], [], none, [], []⟩

def Sand.init : Sand := ⟨[], 0, false, [], 0⟩

def Recorder.init : Recorder := ⟨[], 0, 0, false, false, 0, 0, 0, []⟩

def Screed.init : Screed := ⟨0, false, 0, false, false, 15, 0, 0, 0, 0⟩

def Ctl.init : Ctl :=
  { st := 0, img := 0, endCode := 0, nextSeg := 0, image := none, lanes := 0, q := [], busy := none, sp := none,
    fault := none, serial := 0,
    halt := false, haltBy := 0, refuse := 0, rcore := 0, rindex := 0, bootFail := false, bootStep := 0,
    bootCause := 0, bootMs := 0 }

def Port.init : Port :=
  { st := 0, reason := 0, disable := false, listed := false, cls := 0, nbr := 0, nbrPort := 0, nbrId := 0#256,
    nbrGen := 0, gen := 0, lanes := 0, foundCoord := 0, foundPort := 0, spare := 31, lastLane := 31, hbT1 := 0, hbT4 := 0,
    hbSeen := 0, hbMissed := 0, hbSent := 0, nbrLocked := false, cable := 0, detectAt := 0, again := false, fec := [],
    txBytes := 0, rxBytes := 0, link := none, reqBuf := [], txq := [] }

def Fab.init : Fab := ⟨0, 0, 0, [], [], false, [], 0, 0, 0, [], [], 0, 0, 0⟩

/-- Device registers whose Reset column is not 0: SEM_WAIT_LIMIT, GOV_CAP, GOV_CFG, SAND_CFG. -/
def dregsInit : AMap Nat :=
  [(0x1100, 1000000), (0x300000, 10), (0x300008, 0x5A5F03E8), (0x410000, 3)]

/-- The device without power: every register at its Reset value, every store zero, nothing under way. -/
def State.reset : State :=
  { pending := [], out := [], free := 0, cores := [], dflt := .init, bays := [], dregs := dregsInit,
    sem := [], semIn := [], semLate := [], semPark := [], semAns := [], lath := [], er := .init, scr := .init, ctl := .init,
    fab := .init, mem := .init, regions := [], xng := [], arb := [], sec := .init, pat := .init, sand := .init, expand := none,
    rails := 0 }

end Sys2Proof.Machine
end

