-- ==== Sys2Proof/Machine/Ops.lean ====
section
/-!
DEFINITION. The shared operations on the device: reading and replacing a core, counters, recorder events, the fault
registers, taking a violation (R67, R68) and raising the job fault (R372).
-/

namespace Sys2Proof.Machine

/-- A step's answer. -/
abbrev Res := Host.Outcome State Fault Refusal

/-- Numbers of units (R13, R252, R319). -/
def nCores : Nat := 1792
def nBays : Nat := 32
def nPorts : Nat := 13

/-- Core c (R13). -/
def State.core (s : State) (c : Nat) : Core := aget s.dflt s.cores c

def State.setCore (s : State) (c : Nat) (k : Core) : State := { s with cores := aput s.cores c k }

/-- Core c changed by f. -/
def State.modCore (s : State) (c : Nat) (f : Core → Core) : State := s.setCore c (f (s.core c))

/-- Every core changed by f. -/
def State.mapCores (s : State) (f : Core → Core) : State :=
  { s with cores := s.cores.map (fun p => (p.1, f p.2)), dflt := f s.dflt }

/-- Whether every logical core satisfies p. -/
def State.allCores (s : State) (p : Core → Bool) : Bool :=
  (s.cores.all fun x => p x.2) && (nCores ≤ s.cores.length || p s.dflt)

def State.bay (s : State) (b : Nat) : Bay := aget .init s.bays b

def State.setBay (s : State) (b : Nat) (y : Bay) : State := { s with bays := aput s.bays b y }

/-- Logical bay and compute die of a logical core (R252). -/
def bayOf (c : Nat) : Nat := c / 56
def dieOf (c : Nat) : Nat := c / 448

/-- Cycle count of the bay of core c. -/
def State.cyc (s : State) (c : Nat) : Nat := (s.bay (bayOf c)).cyc

/-- Register words of a core window and of the device window. -/
def Core.reg (k : Core) (off : Nat) : Nat := aget 0 k.regs off
def Core.setReg (k : Core) (off v : Nat) : Core := { k with regs := aput k.regs off (v % 2 ^ 32) }
def Core.bump (k : Core) (off : Nat) : Core := { k with regs := abump k.regs off 1 }
def Core.bumpBy (k : Core) (off n : Nat) : Core := { k with regs := abump k.regs off n }
def State.dreg (s : State) (off : Nat) : Nat := aget 0 s.dregs off
def State.setDreg (s : State) (off v : Nat) : State := { s with dregs := aput s.dregs off (v % 2 ^ 32) }
def State.bumpD (s : State) (off : Nat) : State := { s with dregs := abump s.dregs off 1 }
def State.bumpC (s : State) (c off : Nat) : State := s.modCore c (Core.bump · off)

/-- Offsets of the core's registers (Tables 03-14, 04-8, 05-8, 06-9, 07-8, 08-11, 09-3, 10-7, 11-10). -/
def rCoreCtrl : Nat := 0x0
def rCoreEntry : Nat := 0x4
def rFaultAddr : Nat := 0x10
def rFaultInfo : Nat := 0x18
def rCoreTok : Nat := 0x20
def rCoreViol : Nat := 0x24
def rCollide : Nat := 0x28
def rStall (n : Nat) : Nat := 0x40 + 4 * n
def rBmPage : Nat := 0x200
def rFv2Hold : Nat := 0x210
def rMaCtrl : Nat := 0x1000
def rProd (a : Nat) : Nat := 0x1020 + 4 * a
def rGlz (a : Nat) : Nat := 0x1028 + 4 * a
def rRet : Nat := 0x1030
def rMaViol : Nat := 0x1034
def rWsCe : Nat := 0x1100
def rWsUe : Nat := 0x1104
def rWsLd : Nat := 0x1108
def rVeIssue : Nat := 0x1580
def rVeSf : Nat := 0x1584
def rVePop : Nat := 0x1588
def rVeViol : Nat := 0x158C
def rKcgSeed (n : Nat) : Nat := 0x1700 + 4 * n
def rKcgRank : Nat := 0x1710
def rStnDesc : Nat := 0x1800
def rStnEntry : Nat := 0x1A18
def rStnDone : Nat := 0x1A1C
def rStnHoldM : Nat := 0x1A20
def rStnHoldV : Nat := 0x1A24
def rStnViol : Nat := 0x1A28
def rPnlLateCnt : Nat := 0x4028
def rPnlLateMax : Nat := 0x402C
def rPnlCycOver : Nat := 0x4030
def rPnlTokOver : Nat := 0x4034
def rPnlFloatPeak : Nat := 0x4038
def rSpScrub : Nat := 0x5000
def rSpCe : Nat := 0x5008
def rSpUe : Nat := 0x500C
def rSpCeRow : Nat := 0x5010
def rSpUeRow : Nat := 0x5014
def rSpViol : Nat := 0x5018
def rSpLmRows : Nat := 0x501C
def rHt (h : Nat) : Nat := 0x5800 + 16 * h
def rSeProg (n j : Nat) : Nat := 0x6000 + 0x100 * n + 8 * j
def rSeLinesIn (n : Nat) : Nat := 0x640C + 0x20 * n
def rSeLinesOut (n : Nat) : Nat := 0x6410 + 0x20 * n
def rSeRegHold (n : Nat) : Nat := 0x6414 + 0x20 * n
def rSeTagHold (n : Nat) : Nat := 0x6418 + 0x20 * n
def rSeMerged (n : Nat) : Nat := 0x641C + 0x20 * n
def rSeViol : Nat := 0x6704
def rSePoison : Nat := 0x6708
def rSemTimeout : Nat := 0x7274
def rSemRetry : Nat := 0x7278
def rQRecv (q : Nat) : Nat := 0x7304 + 0x20 * q
def rQDisc (q : Nat) : Nat := 0x7308 + 0x20 * q
def rRtCfg (r : Nat) : Nat := 0x7400 + 0x20 * r
def rRtSent (r : Nat) : Nat := 0x7410 + 0x20 * r
def rRtPad (r : Nat) : Nat := 0x7414 + 0x20 * r
def rMbxCfg (m : Nat) : Nat := 0x7500 + 0x20 * m
def rMbxRec (m : Nat) : Nat := 0x750C + 0x20 * m
def rMbxDisc (m : Nat) : Nat := 0x7510 + 0x20 * m
def rQViol : Nat := 0x7600

/-- Two words of a register as one 64-bit value. -/
def Core.reg64 (k : Core) (off : Nat) : Nat := k.reg off + (k.reg (off + 4)) <<< 32
def State.dreg64 (s : State) (off : Nat) : Nat := s.dreg off + (s.dreg (off + 4)) <<< 32
def State.setDreg64 (s : State) (off v : Nat) : State := (s.setDreg off v).setDreg (off + 4) (v >>> 32)

/-- SEM_WAIT_LIMIT, at least 10,000 (R266). -/
def State.waitLimit (s : State) : Nat := max 10000 (s.dreg 0x1100)

/-- FV2 mode of a core (R209). -/
def Core.fv2 (k : Core) : Bool := k.reg rCoreCtrl % 4 == 1

/-- Event codes (Table 18-9). -/
def evState : Nat := 0x001
def evCmdIgnored : Nat := 0x002
def evStartRefused : Nat := 0x003
def evCapSet : Nat := 0x004
def evHaltDone : Nat := 0x005
def evErFull : Nat := 0x006
def evPanelLate : Nat := 0x100
def evPnlTableBad : Nat := 0x101
def evScrAlign : Nat := 0x102
def evViolation : Nat := 0x200
def evWaitTimeout : Nat := 0x201
def evRtTableBad : Nat := 0x202
def evPoisonFault : Nat := 0x203
def evMemCe : Nat := 0x300
def evMemUe : Nat := 0x301
def evHbmRefRate : Nat := 0x302
def evHbmRetire : Nat := 0x303
def evWdFlipped : Nat := 0x304
def evSeqBad : Nat := 0x305
def evManifestBad : Nat := 0x400
def evPortMismatch : Nat := 0x401
def evPortDown : Nat := 0x402
def evLaneRepair : Nat := 0x403
def evFabForeign : Nat := 0x404
def evJobFault : Nat := 0x405
def evRegionUv : Nat := 0x500
def evPlumbFail : Nat := 0x501
def evReplicaWarn : Nat := 0x502
def evReplicaFail : Nat := 0x503
def evGovStep : Nat := 0x504
def evThermTrip : Nat := 0x505
def evPatchShort : Nat := 0x600
def evPatchFull : Nat := 0x601
def evSandFind : Nat := 0x602
def evSandOverdue : Nat := 0x603
def evHubUe : Nat := 0x604
def evWatchdog : Nat := 0x605
def evScrimFail : Nat := 0x606
def evCodeCopyBad : Nat := 0x700
def evJobImageBad : Nat := 0x701
def evDebugOpen : Nat := 0x702

/-- Error classes (Table 16-1). -/
def clsCorrected : Nat := 0
def clsUncorrected : Nat := 1
def clsViolation : Nat := 2
def clsFatal : Nat := 3

/-- Device states (Table 18-4). -/
def stOff : Nat := 0
def stBooting : Nat := 1
def stIdle : Nat := 2
def stLoaded : Nat := 3
def stRunning : Nat := 4
def stHalted : Nat := 5
def stFaulted : Nat := 6

/-- An event goes to the recorder's queue with the tick of its source (R418, R419). -/
def State.emit (s : State) (code : Nat) (core cls : Option Nat) (payload : List Nat) : State :=
  { s with er := { s.er with q := s.er.q ++ [⟨code, core, cls, payload, s.scr.now⟩] } }

def State.send (s : State) (o : Out) : State := { s with out := s.out ++ [o] }

/-- The two payload words of an address or tick. -/
def lohi (a : Nat) : List Nat := [a % 2 ^ 32, (a >>> 32) % 2 ^ 32]

/-- MASK, PID and EPOCH of FAB_PART. -/
def State.partMask (s : State) : Nat := bits (s.dreg64 0x200008) 43 32
def State.pid (s : State) : Nat := bits (s.dreg64 0x200008) 15 0
def State.epochNo (s : State) : Nat := bits (s.dreg64 0x200008) 31 16

/-- Whether coordinate y lies in this device's partition (R332). -/
def State.inPartition (s : State) (y : Nat) : Bool :=
  y ||| s.partMask == s.fab.coord ||| s.partMask

def State.port (s : State) (p : Nat) : Port := aget .init s.fab.ports p

def State.setPort (s : State) (p : Nat) (x : Port) : State := { s with fab := { s.fab with ports := aput s.fab.ports p x } }

/-- Port states (Table 14-2). -/
def psDown : Nat := 0
def psDetect : Nat := 1
def psTrain : Nat := 2
def psIdent : Nat := 3
def psActive : Nat := 4
def psDisabled : Nat := 5
def psRepair : Nat := 6

/-- The link is up: ACTIVE, or in a lane repair, during which what it carries waits (R327). -/
def Port.up (x : Port) : Bool := x.st == psActive || x.st == psRepair

/-- The port carries transactions: one that was lost and trained again does so from the next START on (R347). -/
def Port.usable (x : Port) : Bool := x.up && !x.again

/-- The ACTIVE ports that join the device to its partition (R348). -/
def State.partPorts (s : State) : List Nat :=
  (upto nPorts).filter fun p => (s.port p).up && (s.port p).nbr != s.fab.coord && s.inPartition (s.port p).nbr

/-- The count in which durations given in ticks are measured (R11): screed time once it runs; before the first lock the
device's own nanoseconds, on which the memory controllers count (R295; DESIGN CHOICE for every other such duration, log
entry 107). -/
def State.refCount (s : State) : Nat := if s.scr.running then s.scr.now else s.scr.ns

/-- The frequencies that the last 1,000 tk before t need: all that begin in them, and the one before. -/
def keepFreqs (t : Int) : List (Int × Nat) → List (Int × Nat)
  | [] => []
  | x :: xs => if x.1 ≤ t - 1000 then [x] else x :: keepFreqs t xs

/-- Ticks times MHz from tick t0 to tick hi; the oldest frequency counts for what lies before it. -/
def freqSum (t0 : Int) : Int → List (Int × Nat) → Nat
  | _, [] => 0
  | hi, [x] => (hi - t0).toNat * x.2
  | hi, x :: xs => (hi - max x.1 t0).toNat * x.2 + freqSum t0 (min hi (max x.1 t0)) xs

/-- FNOW at tick t (Table 15-6): the mean over the last 1,000 tk, rounded down. -/
def Region.fnow (x : Region) (t : Nat) : Nat := freqSum ((t : Int) - 1000) t x.freqs / 1000

/-- FAB_PORT_TX and FAB_PORT_RX of port p (R320: headers are payload). -/
def rPortTx (p : Nat) : Nat := 0x201020 + 0x40 * p
def rPortRx (p : Nat) : Nat := 0x201028 + 0x40 * p

/-- A 64-bit count that stops at its largest value (R10). -/
def State.addD64 (s : State) (off n : Nat) : State := s.setDreg64 off (satAdd 64 (s.dreg64 off) n)

/-- Payload bytes of the 255 flits of a group (R320). -/
def groupBytes : Nat := 16320

/-- Port p has sent bytes up to n: each group that they complete is followed by its link flit, with the group's number, the
number of groups received, and the check of the group (R320; log entry 108). -/
def Port.sent (x : Port) (n : Nat) : Port :=
  let t := x.txBytes + n
  let g := t / groupBytes
  { x with
    txBytes := t
    link := if x.txBytes / groupBytes < g then some (g - 1, x.rxBytes / groupBytes, Config.groupCrc (g - 1)) else x.link }

/-- A transaction of n payload bytes leaves through port p. -/
def State.leave (s : State) (p n : Nat) (o : Out) : State :=
  ((s.setPort p ((s.port p).sent n)).addD64 (rPortTx p) n).send o

/-- A transaction comes to the output of port p from input inp: it leaves, or waits while a lane repair lets no flit move
(R327). -/
def State.portOut (s : State) (p inp n : Nat) (o : Out) : State :=
  let x := s.port p
  if x.st == psRepair then s.setPort p { x with txq := x.txq ++ [(inp, n, o)] } else s.leave p n o

/-- A transaction that the device originates, or the copy of a job fault from device src, goes out on port p with PID and
EPOCH (R337, R345). -/
def State.sendOn (s : State) (p src op dst tag addr : Nat) (data : List Byte) (poison : Bool) (x : List Nat) : State :=
  s.portOut p 0 (32 + data.length) (.fabric p op src dst tag addr s.pid s.epochNo data poison x)

/-- JOB_FAULT on each port of a list (R348): origin, serial, reason, the origin's tick. -/
def State.floodFault (s : State) (ports : List Nat) (origin serial reason tick : Nat) : State :=
  ports.foldl (fun t p => t.sendOn p origin 0x41 (t.port p).nbr 0 0 [] false [serial, reason, tick]) s

/-- Bay and bay cycle of an event of core c: the reasons SAND to TIMEOUT of Table 16-3 name a core. -/
def State.faultCycle (s : State) (reason c : Nat) : Option (Nat × Nat) :=
  if 2 ≤ reason && reason ≤ 5 then some (bayOf c, s.cyc c) else none

/-- Payload of the JOB_FAULT record. -/
def State.faultWords (s : State) (reason core addr : Nat) : List Nat :=
  [reason + s.fab.coord <<< 4 + s.ctl.serial <<< 16, core] ++ lohi addr

/-- The device's own JOB_FAULT goes out on every port of its partition, and is counted (R348, R372). -/
def State.broadcastFault (s : State) (serial reason : Nat) : State :=
  if s.partPorts.isEmpty then s
  else (s.floodFault s.partPorts s.fab.coord serial reason s.scr.now).bumpD 0x200028

/-- The event becomes the job's first fault: it halts every core, is broadcast and recorded (R372). -/
def State.firstFault (s : State) (reason core addr : Nat) : State :=
  let serial := (s.ctl.serial + 1) % 65536
  let fault : FaultInfo := ⟨reason, s.fab.coord, core, addr, s.scr.ns, s.faultCycle reason core⟩
  let s := { s with ctl := { s.ctl with fault := some fault, halt := true, serial } }
  let s := { s with fab := { s.fab with seen := (s.fab.coord, serial, s.epochNo) :: s.fab.seen } }
  (s.broadcastFault serial reason).emit evJobFault none none (s.faultWords reason core addr)

/-- The fault arose in the cycle of an event now: in the same cycle of one bay, and between regions in the same nanosecond
(DESIGN CHOICE, log entry 113). -/
def FaultInfo.sameCycle (f : FaultInfo) (ns : Nat) (c : Option (Nat × Nat)) : Bool :=
  match f.cyc, c with
  | some a, some b => if a.1 == b.1 then a.2 == b.2 else f.ns == ns
  | _, _ => f.ns == ns

/-- What is sent names another reason where it is the device's own JOB_FAULT of the given serial. -/
def Out.withReason (coord serial reason : Nat) : Out → Out
  | .fabric p op src dst tag addr pid epoch data poison x =>
    .fabric p op src dst tag addr pid epoch data poison
      (if op == 0x41 && src == coord && x.headD 0 == serial then lset x 1 reason else x)
  | o => o

/-- An event of the same cycle with a lower reason takes the first one's place, in the message and in the record too (R372). -/
def State.otherFault (s : State) (f : FaultInfo) (reason core addr : Nat) : State :=
  let old := s.faultWords f.reason f.core f.addr
  let new := s.faultWords reason core addr
  let w := Out.withReason s.fab.coord s.ctl.serial reason
  { s with
    ctl := { s.ctl with fault := some { f with reason, core, addr } }
    out := s.out.map w
    fab := { s.fab with ports := s.fab.ports.map fun x =>
      (x.1, { x.2 with txq := x.2.txq.map fun (y : Nat × Nat × Out) => (y.1, y.2.1, w y.2.2) }) }
    er := { s.er with q := s.er.q.map fun e =>
      if e.code == evJobFault && e.payload == old then { e with payload := new } else e } }

/-- An event of R372: the first one of a job raises the job fault; one of the same cycle with a lower reason takes its place.
Later ones, and events while the device is not RUNNING, raise nothing. -/
def State.raiseFault (s : State) (reason core addr : Nat) : State :=
  if s.ctl.st != stRunning then s
  else match s.ctl.fault with
    | none => s.firstFault reason core addr
    | some f =>
      if reason < f.reason && f.origin == s.fab.coord && f.sameCycle s.scr.ns (s.faultCycle reason core) then
        s.otherFault f reason core addr
      else s

/-- CORE_FAULT_ADDR and CORE_FAULT_INFO take a violation; index is the bundle index at the violation. -/
def Core.putFault (k : Core) (code slot index addr flags : Nat) : Core :=
  ((k.setReg rFaultInfo (code % 256 + flags + (slot % 8) <<< 10 + (index % 2048) <<< 13)).setReg rFaultAddr
    addr).setReg (rFaultAddr + 4) (addr >>> 32)

/-- The fault registers take the first violation; a further one sets OVF (R68). Of the violations of one bay cycle
cyc, whatever the order in which they are found, they hold the one with the lowest slot (R284). -/
def Core.logFault (k : Core) (cyc code slot index addr : Nat) : Core :=
  let info := k.reg rFaultInfo
  if !bit info 8 then
    { k.putFault code slot index addr 256 with is := { k.is with faultCyc := cyc } }
  else if k.is.faultCyc == cyc && decide (slot < bits info 12 10) then k.putFault code slot index addr 768
  else k.setReg rFaultInfo (setBits info 9 9 1)

/-- The bundle index that a violation logs: the bundle at the issue point. -/
def Core.bundleIndex (k : Core) : Nat := min k.is.next 2047

/-- A core stops issue (R67); what held its bundle no longer counts. -/
def Core.stop (k : Core) : Core := { k with is := { k.is with stopped := true, holds := [] } }

/-- TAKING A VIOLATION (R67, R68): the counter at offset cnt counts, the fault registers log, the core stops, the
VIOLATION record is written and the job fault raised. -/
def State.violate (s : State) (c code slot addr cnt : Nat) : State :=
  let k := (s.core c).bump cnt
  let k := (k.logFault (s.cyc c) code slot k.bundleIndex addr).stop
  let s := s.setCore c k
  let s := s.emit evViolation (some c) (some clsViolation) ([k.reg rFaultInfo] ++ lohi addr ++ [k.reg cnt])
  s.raiseFault 4 c addr

/-- A further violation of the same cycle: OVF and its own counter (R284). -/
def State.violateMore (s : State) (c code slot addr cnt : Nat) : State := s.violate c code slot addr cnt

/-- A poison fault (R371): fault code 0xC and the row of Table 16-2. -/
def State.poisonFault (s : State) (c row slot addr : Nat) : State :=
  let k := s.core c
  let k := (k.logFault (s.cyc c) (0xC0 + row) slot k.bundleIndex addr).stop
  let s := s.setCore c k
  let s := s.emit evPoisonFault (some c) (some clsUncorrected) ([0xC0 + row] ++ lohi addr)
  s.raiseFault 3 c addr

/-- A wait timeout (R264): counter of the waiting party's table, SEM_TIMEOUT_CNT, fault registers, the WAIT_TIMEOUT
record, the job fault with reason TIMEOUT. -/
def State.timeout (s : State) (c code slot party addr deadline : Nat) (cnts : List Nat) : State :=
  let k := (cnts.foldl Core.bump (s.core c)).bump rSemTimeout
  let k := (k.logFault (s.cyc c) code slot k.bundleIndex addr).stop
  let s := s.setCore c k
  let s := s.emit evWaitTimeout (some c) (some clsViolation) ([party] ++ lohi addr ++ lohi deadline)
  s.raiseFault 5 c addr

/-- DEVID: digest of the identity public key (Table 16-6). -/
def devid : BitVec 256 := Config.digest (toBytes 64 Config.idkPub.toNat)

/-- A FATAL error sets PATCH_STATUS.FATAL, writes its own record, and raises the job fault of a RUNNING device
(R373). -/
def State.markFatal (s : State) (code : Nat) (core : Option Nat) (payload : List Nat) : State :=
  (s.setDreg 0x400000 (setBits (s.dreg 0x400000) 0 0 1)).emit code core (some clsFatal) payload

def State.fatal (s : State) (code : Nat) (core : Option Nat) (payload : List Nat) (reason : Nat) : State :=
  (s.markFatal code core payload).raiseFault reason (core.getD 0) 0

/-- The device is in a state in which state-limited fields may be written (R71). -/
def State.writable (s : State) : Bool :=
  s.ctl.st == stIdle || s.ctl.st == stLoaded || s.ctl.st == stHalted

/-- An answer for a command whose core exists. -/
def onCore (c : Nat) (s : State) (f : State → State) : Res :=
  if c < nCores then .next (f s) else .fault .noSuchUnit

/-- An answer for a command whose unit number is in range. -/
def onUnit (ok : Bool) (s : State) (f : State → State) : Res :=
  if ok then .next (f s) else .fault .noSuchUnit

end Sys2Proof.Machine
end

