-- ==== Sys2Proof/Machine/Scratchpad.lean ====
section
/-!
DEFINITION. The scratchpad: rows, banks and ports (R155, R156), reads with ECC and poison (R159, R160), writes that
commit (R157, R158), segment state (R161, R162), and the effects that land when their latency has passed (R60).
-/

namespace Sys2Proof.Machine

/-- Number of scratchpad rows. -/
def nRows : Nat := 16384

/-- Bank of a row (R155). -/
def bankOf (row : Nat) : Nat := (row % 16) ^^^ ((row >>> 10) % 16)

/-- Segment of a row. -/
def segOf (row : Nat) : Nat := row / 64

/-- Segment states (Table 07-2). -/
def segEmpty : Nat := 0
def segFilling : Nat := 1
def segLanded : Nat := 2

def Core.segState (k : Core) (n : Nat) : Nat := aget segLanded k.sp.seg n

def Core.setSeg (k : Core) (n st : Nat) : Core := { k with sp := { k.sp with seg := aput k.sp.seg n st } }

/-- A checked read of the row may proceed (R162, R163). -/
def Core.landed (k : Core) (row : Nat) : Bool := k.segState (segOf row) == segLanded

/-- The 64 bytes of a row as one 512-bit value. -/
def Core.rowBits (k : Core) (row : Nat) : BitVec 512 := BitVec.ofNat 512 (mnum k.sp.mem (64 * row) 64)

/-- Groups of a row with a latent error of the given kind (1 single, 2 uncorrectable). -/
def Core.rowErrs (k : Core) (row kind : Nat) : List Nat :=
  (upto 8).filter fun g => aget 0 k.sp.err (row * 8 + g) == kind

def Core.rowPoisoned (k : Core) (row : Nat) : Bool := aget false k.sp.poison row

def Core.setPoison (k : Core) (row : Nat) (p : Bool) : Core :=
  { k with sp := { k.sp with poison := if p then aput k.sp.poison row true else adel k.sp.poison row } }

/-- The bookkeeping of errors that an access to a row finds (R159): counters, last rows, records. -/
def State.countErrs (s : State) (c row ce ue : Nat) : State :=
  let s := if ce == 0 then s else
    (s.modCore c fun k => (k.bumpBy rSpCe ce).setReg rSpCeRow row).emit evMemCe (some c) (some clsCorrected)
      ([1] ++ lohi row)
  if ue == 0 then s else
    (s.modCore c fun k => (k.bumpBy rSpUe ue).setReg rSpUeRow row).emit evMemUe (some c) (some clsUncorrected)
      ([1] ++ lohi row)

/-- A read of a row: the state after its error bookkeeping, the data, its poison (R159, R160). All reads of one row in
one cycle are one read, which finds an error once (R156). -/
def State.readRow (s : State) (c row : Nat) : State × BitVec 512 × Bool :=
  let k := s.core c
  let ce := (k.rowErrs row 1).length
  let ue := (k.rowErrs row 2).length
  let t :=
    if k.is.sensed.contains row then s
    else (s.setCore c { k with is := { k.is with sensed := row :: k.is.sensed } }).countErrs c row ce ue
  (t, k.rowBits row, k.rowPoisoned row || ue != 0)

/-- A write of whole bytes. -/
def byteWrites (bytes : List (Option Byte)) : List ByteWrite :=
  bytes.map fun b => match b with | some v => (0xFF#8, v) | none => (0#8, 0#8)

/-- A write of single bits of bytes of a row. -/
def partWrites (part : List (Nat × Byte × Byte)) : List ByteWrite :=
  (upto 64).map fun i => part.foldl (fun x p =>
    if p.1 == i then (x.1 ||| p.2.1, (x.2 &&& ~~~p.2.1) ||| (p.2.2 &&& p.2.1)) else x) (0#8, 0#8)

/-- Whether the write covers every bit of group g. -/
def coversGroup (w : List ByteWrite) (g : Nat) : Bool :=
  ((w.drop (8 * g)).take 8).all fun x => x.1 == 0xFF#8

/-- A row write commits: merge, ECC of the groups left, poison (R158, R159, R160). -/
def State.commitBits (s : State) (c row : Nat) (w : List ByteWrite) (poison : Bool) : State :=
  let k := s.core c
  let full := w.all fun x => x.1 == 0xFF#8
  let ue := k.rowErrs row 2
  let bad := ue.any fun g => !coversGroup w g
  let err := (upto 8).foldl (fun m g => if coversGroup w g then adel m (row * 8 + g) else m) k.sp.err
  let p := poison || bad || (k.rowPoisoned row && !full)
  let wb := k.sp.scrubWb.filter fun x => x.1 != row
  let k := { k with sp := { k.sp with mem := mputBits k.sp.mem (64 * row) w, err, scrubWb := wb } }
  let s := s.setCore c (k.setPoison row p)
  if full then s else s.countErrs c row 0 ue.length

def State.commitRow (s : State) (c row : Nat) (bytes : List (Option Byte)) (poison : Bool) : State :=
  s.commitBits c row (byteWrites bytes) poison

/-- The bytes of a whole row write. -/
def wholeRow (v : BitVec 512) : List (Option Byte) := (toBytes 64 v.toNat).map some

/-- The write-back of the scrubber commits: fresh check bits in every group, poison for an uncorrectable row (R170). -/
def Core.scrubbed (k : Core) (row : Nat) (ue : Bool) : Core :=
  let err := (upto 8).foldl (fun m g => adel m (row * 8 + g)) k.sp.err
  let k := { k with sp := { k.sp with err } }
  if ue then k.setPoison row true else k

/-- An effect becomes visible. -/
def State.land (s : State) (c : Nat) (e : Effect) : State :=
  match e with
  | .sreg r v => s.modCore c fun k =>
      if r == 0 then k else { k with sc := { k.sc with s := aput k.sc.s r v } }
  | .vreg r lanes p whole => s.modCore c fun k =>
      let old := aget (List.replicate 64 0#32) k.ve.v r
      let new := (old.zip lanes).map fun x => x.2.getD x.1
      let bad := p || (!whole && aget false k.ve.vPoison r)
      { k with ve := { k.ve with v := aput k.ve.v r new, vPoison := aput k.ve.vPoison r bad } }
  | .mreg r act v p whole => s.modCore c fun k =>
      let old := aget 0#64 k.ve.m r
      let bad := p || (!whole && aget false k.ve.mPoison r)
      { k with ve := { k.ve with m := aput k.ve.m r ((old &&& ~~~act) ||| (v &&& act)),
                                 mPoison := aput k.ve.mPoison r bad } }
  | .row _ row bytes p => s.commitRow c row bytes p
  | .rowPart _ row part p => s.commitBits c row (partWrites part) p
  | .scrubbed row ue => s.modCore c fun k => k.scrubbed row ue
  | .wcol n line p => s.modCore c fun k =>
      let err := (upto 8).foldl (fun m g => adel m (n * 8 + g)) k.mx.wsErr
      { k with mx := { k.mx with ws := aput k.mx.ws n line, wsErr := err,
                                 wsPoison := if p then aput k.mx.wsPoison n true else adel k.mx.wsPoison n } }
  | .seg n st => s.modCore c fun k => k.setSeg n st

/-- Whether an effect under way is visible now. -/
def Due.ripe (d : Due) (clk cyc : Nat) : Bool := d.due ≤ (if d.pipe then clk else cyc)

/-- A row write that commits: the row, what it writes, its poison. -/
structure RowWrite where
  row : Nat
  w : List ByteWrite
  poison : Bool
deriving DecidableEq, Repr

/-- The row write that an effect is; one that writes no byte carries no poison. -/
def Effect.write : Effect → Option RowWrite
  | .row _ n bytes p => some ⟨n, byteWrites bytes, p && bytes.any Option.isSome⟩
  | .rowPart _ n part p => some ⟨n, partWrites part, p⟩
  | _ => none

/-- Place of a row write in the order of Table 03-10 and R63. -/
def Due.rank (d : Due) : Nat :=
  match d.eff with
  | .row r _ _ _ => 8 * r + d.sub
  | .rowPart r _ _ _ => 8 * r + d.sub
  | _ => 0

/-- Insertion by rising rank; of two writes of one place the one issued later comes first. -/
def insRank (d : Due) : List Due → List Due
  | [] => [d]
  | e :: es => if e.rank < d.rank then e :: insRank d es else d :: e :: es

/-- Two writes of one row in one cycle: each byte that both write is a's, the higher-ranked one's (R65). -/
def RowWrite.over (a b : RowWrite) : RowWrite :=
  let both := a.w.zip b.w
  { a with w := both.map fun x => if x.1.1 == 0#8 then x.2 else x.1,
           poison := a.poison || (b.poison && both.any fun x => x.1.1 == 0#8 && x.2.1 != 0#8) }

/-- A write joins those of higher rank: one write a row (R156). -/
def joinWrite (x : RowWrite) : List RowWrite → List RowWrite
  | [] => [x]
  | y :: ys => if y.row == x.row then y.over x :: ys else y :: joinWrite x ys

/-- The row writes of effects that commit together, one a row (R65, R156). -/
def mergedWrites (ds : List Due) : List RowWrite :=
  ((ds.foldl (fun l d => insRank d l) []).filterMap fun d => d.eff.write).foldl (fun l x => joinWrite x l) []

/-- Every effect of core c that is due lands: row writes merged by row, the other effects in issue order. -/
def State.mature (s : State) (c : Nat) : State :=
  let k := s.core c
  let cyc := s.cyc c
  let ripe := k.inflight.filter fun d => d.ripe k.is.clk cyc
  let s := s.setCore c { k with inflight := k.inflight.filter fun d => !d.ripe k.is.clk cyc }
  let s := (ripe.filter fun d => d.eff.write.isNone).foldl (fun t d => t.land c d.eff) s
  (mergedWrites ripe).foldl (fun t x => t.commitBits c x.row x.w x.poison) s

/-- An effect is under way from now: visible after lat cycles of the pipeline clock or the bay; a consumer in FV2
mode is held from lat2 cycles on (R212). -/
def Core.later (k : Core) (e : Effect) (pipe : Bool) (now lat lat2 : Nat) : Core :=
  { k with inflight := k.inflight ++ [⟨e, pipe, now + lat, now + lat2, k.is.serial, 0⟩],
           is := { k.is with serial := k.is.serial + 1 } }

/-- A vector result for an S register. -/
def Core.toS (k : Core) (r : Nat) (v : Word) (lat lat2 : Nat) : Core :=
  { k with inflight := k.inflight ++ [⟨.sreg r v, true, k.is.clk + lat, k.is.clk + lat2, k.is.serial, 3⟩],
           is := { k.is with serial := k.is.serial + 1 } }

/-- The request (write port, row, rank) meets another row at its bank port in this cycle (R156). -/
def Core.portTaken (k : Core) (w : Bool) (row : Nat) : Bool :=
  k.is.ports.any fun p => p.1 == w && p.2.1 == bankOf row && p.2.2.1 != row

/-- The row that the port of a bank serves in this cycle: the one decided already, or else that of the first of the
requests reqs, which stand in the order of R63 (R64: each port is decided once a cycle). -/
def Core.portRow (k : Core) (w : Bool) (bank : Nat) (reqs : List (Bool × Nat × Nat)) : Option Nat :=
  match k.is.ports.find? fun p => p.1 == w && p.2.1 == bank with
  | some p => some p.2.2.1
  | none => (reqs.find? fun r => r.1 == w && bankOf r.2.1 == bank).map fun r => r.2.1

/-- The request uses its port in this cycle; every row access costs one token (Table 03-11). -/
def Core.usePort (k : Core) (w : Bool) (row rank : Nat) : Core :=
  { k with is := { k.is with ports := (w, bankOf row, row, rank) :: k.is.ports, tok := k.is.tok + 1 } }

/-- A held engine request counts (R64). -/
def Core.held (k : Core) : Core := k.bump rCollide

/-- An external row stands in the landing queue behind those that arrived before it; rows that arrive in one cycle
stand in the order of their senders (R171). -/
def insExt (x : ExtRow) : List ExtRow → List ExtRow
  | [] => [x]
  | y :: ys => if y.came == x.came && decide (x.sender < y.sender) then x :: y :: ys else y :: insExt x ys

/-- Rows of one sender arrive in cycle cyc. -/
def Core.arrive (k : Core) (cyc sender : Nat) (rows : List ExtRow) : Core :=
  { k with ext := (rows.map fun r => { r with came := cyc, sender }).foldl (fun l r => insExt r l) k.ext }

/-- The place of another device among the senders of R171. -/
def farSender (coord : Nat) : Nat := 2048 + coord

/-- Row writes of core c under way to a row within the FV2 gap (R212). -/
def Core.rowGap (k : Core) (row cyc : Nat) : Bool :=
  k.inflight.any fun d =>
    match d.eff with
    | .row _ r _ _ => r == row && d.gap ≤ (if d.pipe then k.is.clk else cyc)
    | .rowPart _ r _ _ => r == row && d.gap ≤ (if d.pipe then k.is.clk else cyc)
    | _ => false

end Sys2Proof.Machine
end

