-- ==== Sys2Proof/Machine/Operands.lean ====
section
/-!
DEFINITION. Bundles and their slot fields (R46, R52 to R55), register operands as they stand at issue (R47), the
rows that a bundle reads, the lane layouts of R144 and the operand classes of Table 06-2.
-/

namespace Sys2Proof.Machine

/-- Scalar slot (Table 03-5). -/
structure SclSlot where
  op : Nat
  rd : Nat
  rs1 : Nat
  rs2 : Nat
  imm : Nat
deriving DecidableEq, Repr

/-- Local-memory slot (Table 03-3). -/
structure LmsSlot where
  lop : Nat
  sd : Nat
  ss : Nat
  len : Nat
  dstr : Nat
  sstr : Nat
deriving DecidableEq, Repr

/-- Control slot (Table 03-3). -/
structure CtlSlot where
  cop : Nat
  sa : Nat
  sb : Nat
  hnd : Nat
  idx : Nat
  imm : Nat
deriving DecidableEq, Repr

/-- A bundle (Table 03-2). -/
structure Bundle where
  run : Nat
  mark : Bool
  chkM : Bool
  chkV : Bool
  chkL : Bool
  rsv : Nat
  scl : SclSlot
  mat : MatSlot
  vec : VecSlot
  lms : LmsSlot
  ctl : CtlSlot
  /-- The mask writes of a gather stencil in the scalar slot of a generated bundle (R179, R203): first register, masks. -/
  masks : Option (Nat × Nat × Nat) := none
deriving DecidableEq, Repr

/-- The S registers that the mask writes of a bundle name. -/
def maskRegs : Option (Nat × Nat × Nat) → List Nat
  | some (r, _, _) => [r, r + 1]
  | none => []

def sclOf (w : Nat) : SclSlot := ⟨bits w 7 0, bits w 12 8, bits w 17 13, bits w 22 18, bits w 39 23⟩

def matOf (w : Nat) : MatSlot :=
  ⟨bits w 5 0, bits w 9 6, bits w 10 10, bits w 11 11, bits w 13 12, bits w 25 14, bits w 39 26, bits w 53 40,
    bits w 63 54⟩

def vecOf (w : Nat) : VecSlot :=
  ⟨bits w 7 0, bits w 12 8, bits w 17 13, bits w 22 18, bits w 27 23, bits w 30 28, bit w 31, bits w 45 32,
    bits w 49 46, bits w 55 50⟩

def lmsOf (w : Nat) : LmsSlot := ⟨bits w 3 0, bits w 8 4, bits w 13 9, bits w 21 14, bits w 26 22, bits w 31 27⟩

def ctlOf (w : Nat) : CtlSlot := ⟨bits w 5 0, bits w 10 6, bits w 15 11, bits w 21 16, bits w 24 22, bits w 47 25⟩

/-- The bundle that a 256-bit value holds (R46). -/
def bundleOf (w : Nat) : Bundle :=
  { run := bits w 5 0, mark := bit w 6, chkM := bit w 7, chkV := bit w 8, chkL := bit w 9, rsv := bits w 15 10,
    scl := sclOf (bits w 55 16), mat := matOf (bits w 119 56), vec := vecOf (bits w 175 120),
    lms := lmsOf (bits w 207 176), ctl := ctlOf (bits w 255 208) }

/-- Bundle i of the core's bundle memory (R46). -/
def Core.bundle (k : Core) (i : Nat) : Bundle := bundleOf (mnum k.bm (32 * i) 32)

/-- S register r as it stands (R54). -/
def Core.s (k : Core) (r : Nat) : Word := if r == 0 then 0#32 else aget 0#32 k.sc.s r

def Core.lc (k : Core) (n : Nat) : Word := aget 0#32 k.sc.lc n

/-- A write to S register r that is visible in the next cycle; S0 keeps reading 0. -/
def Core.setS (k : Core) (r : Nat) (v : Word) : Core :=
  if r == 0 then k else { k with sc := { k.sc with s := aput k.sc.s r v } }

def Core.setLc (k : Core) (n : Nat) (v : Word) : Core := { k with sc := { k.sc with lc := aput k.sc.lc n v } }

/-- V register r: 64 lanes. -/
def Core.v (k : Core) (r : Nat) : List Word := aget (List.replicate 64 0#32) k.ve.v r

def Core.m (k : Core) (r : Nat) : DWord := aget 0#64 k.ve.m r

def Core.vPoisoned (k : Core) (r : Nat) : Bool := aget false k.ve.vPoison r

def Core.mPoisoned (k : Core) (r : Nat) : Bool := aget false k.ve.mPoison r

/-- Whether a long-latency write to S register r is pending (R62). S0, whose writes are discarded, has none (DEDUCED, log
entry 114). -/
def Core.sPending (k : Core) (r : Nat) : Bool :=
  r != 0 && k.inflight.any fun d => match d.eff with | .sreg n _ => n == r | _ => false

/-- Such a write outside the gap of FV2 mode, in which the register's users are held under OTHER (R212, R213). -/
def Core.sWaits (k : Core) (r : Nat) : Bool :=
  r != 0 && k.inflight.any fun d => match d.eff with
    | .sreg n _ => n == r && !(k.fv2 && decide (d.gap ≤ k.is.clk))
    | _ => false

/-! ### Scalar slot -/

/-- Table 03-6: fields used by an opcode as bits 0 RD, 1 RS1, 2 RS2, 3 IMM; none for a value not listed. -/
def sclUses (op : Nat) : Option Nat :=
  if op == 0 then some 15
  else if op ≤ 0x0D then some 7
  else if op == 0x15 || op == 0x26 || op == 0x29 || op == 0x30 then some 9
  else if (0x10 ≤ op && op ≤ 0x14) || op == 0x18 || op == 0x28 then some 11
  else if op == 0x19 || (0x20 ≤ op && op ≤ 0x24) then some 14
  else if op == 0x25 then some 8
  else if op == 0x27 then some 2
  else none

/-- Branches and LEND (R58, R59). -/
def isBranch (op : Nat) : Bool := (0x20 ≤ op && op ≤ 0x27) || op == 0x29

/-- S registers that a scalar slot reads or writes. -/
def sclRegs (x : SclSlot) : List Nat :=
  match sclUses x.op with
  | none => []
  | some u =>
    if x.op == 0 then []
    else
      (if bit u 0 && x.op != 0x28 && x.op != 0x29 then [x.rd] else []) ++ (if bit u 1 then [x.rs1] else []) ++
        (if bit u 2 then [x.rs2] else [])

/-- Result of an arithmetic scalar operation (Table 03-6). -/
def alu (op : Nat) (a b : Word) (imm : Nat) : Word :=
  let se : Word := BitVec.ofInt 32 (sext 17 imm)
  let ze : Word := BitVec.ofNat 32 imm
  let sh := b.toNat % 32
  match op with
  | 0x01 => a + b
  | 0x02 => a - b
  | 0x03 => a * b
  | 0x04 => a &&& b
  | 0x05 => a ||| b
  | 0x06 => a ^^^ b
  | 0x07 => a <<< sh
  | 0x08 => a >>> sh
  | 0x09 => a.sshiftRight sh
  | 0x0A => if a.slt b then a else b
  | 0x0B => if a.slt b then b else a
  | 0x0C => if a.slt b then 1#32 else 0#32
  | 0x0D => if a.ult b then 1#32 else 0#32
  | 0x10 => a + se
  | 0x11 => a &&& ze
  | 0x12 => a ||| ze
  | 0x13 => a <<< (imm % 32)
  | 0x14 => a >>> (imm % 32)
  | 0x15 => ze <<< 15
  | _ => 0#32

/-- Whether a branch is taken (Table 03-6); LEND is decided by its loop counter. -/
def taken (op : Nat) (a b : Word) : Bool :=
  match op with
  | 0x20 => a == b
  | 0x21 => a != b
  | 0x22 => a.slt b
  | 0x23 => !a.slt b
  | 0x24 => a.ult b
  | _ => true

/-- Scratchpad byte address of SLD and SST (R56). -/
def sclAddr (k : Core) (x : SclSlot) : Nat := (k.s x.rs1 + BitVec.ofInt 32 (sext 17 x.imm)).toNat

def sclAddrOk (a : Nat) : Bool := a % 4 == 0 && a < 0x100000

/-! ### Matrix slot -/

/-- Arrays that a slot enables. -/
def arrays (en : Nat) : List Nat := (if bit en 0 then [0] else []) ++ (if bit en 1 then [1] else [])

def MatSlot.row (x : MatSlot) (a : Nat) : Nat := if a == 0 then x.a0 else x.a1

/-- MAUX of MMA (Table 04-4). -/
def MatSlot.init (x : MatSlot) : Bool := bit x.maux 0
def MatSlot.srd (x : MatSlot) : Bool := bit x.maux 1
def MatSlot.last (x : MatSlot) : Bool := bit x.maux 2
def MatSlot.glz (x : MatSlot) : Bool := bit x.maux 3
def MatSlot.sel (x : MatSlot) : Nat := bits x.maux 8 4
def MatSlot.half (x : MatSlot) : Nat := bits x.maux 9 9

/-- Rank of a product: k, or k' of a transposed read (R86). -/
def effRank (t : Tag) (axis : Nat) : Nat := if axis == 1 && t.k == 8 then 4 else t.k

/-- Scratchpad rows that a matrix operation reads, with their rank (R63, R77, R79, R84). -/
def matRows (x : MatSlot) : List (Nat × Nat) :=
  if x.mop == 1 then
    (arrays x.en).flatMap fun a =>
      let r := x.row a
      [(r, 5 + a)] ++ (if x.fmt == 0xE && x.axis == 0 then [(r + 1, 5 + a)] else []) ++
        (if x.srd then [(r - 1, 5 + a)] else [])
  else if x.mop == 4 then (arrays x.en).map fun a => (x.row a, 7)
  else []

/-- S registers that a matrix operation reads (R95). -/
def matRegs (x : MatSlot) : List Nat :=
  if x.mop == 1 && x.en != 0 && x.axis == 0 && x.glz && x.sel != 0 then
    (arrays x.en).map fun a => x.sel + a
  else []

/-- Weight columns that a product reads (R76, R79, R86, R87). -/
def matCols (x : MatSlot) : List Nat :=
  let c := x.wsa / 4
  match tagOf x.fmt with
  | none => []
  | some t =>
    if x.mop != 1 || x.en == 0 then []
    else if x.axis == 0 then [c] ++ (if x.srd then [c - 1] else [])
    else
      let e := 16 / t.w.width
      ((upto (32 / e)).map fun i => c + i) ++
        (if x.fmt == 0xE then [c - 1 - x.half * (32 / e)] else [])

/-- Tokens of one array adding a product (Table 03-11). -/
def tagTokens (fmt : Nat) : Nat := if fmt ≤ 1 then 10 else if fmt ≤ 0xB then 14 else 19

/-! ### Vector slot -/

/-- How an operation uses its fields. -/
inductive VForm where
  | e1 | e2 | e3 | am | cv | sc | cmp | sel | m1 | m2 | mld | sf | rand | drop | red | cnt | ld | ldsc | st | stq | stsc
  | fd
deriving DecidableEq, Repr

/-- Table 06-2. -/
def vform (op : Nat) : Option VForm :=
  if op == 0x04 || op == 0x05 then some .e3
  else if 0x01 ≤ op && op ≤ 0x07 then some .e2
  else if op == 0x08 || op == 0x09 || op == 0x0B || op == 0x0D || op == 0x0F then some .e1
  else if op == 0x0A then some .am
  else if op == 0x0C then some .cv
  else if op == 0x0E then some .sel
  else if (0x10 ≤ op && op ≤ 0x12) || op == 0x23 then some .cmp
  else if 0x18 ≤ op && op ≤ 0x22 then some .e2
  else if 0x28 ≤ op && op ≤ 0x2A then some .m2
  else if op == 0x2B then some .m1
  else if op == 0x2C then some .mld
  else if 0x30 ≤ op && op ≤ 0x33 then some .sf
  else if op == 0x38 then some .rand
  else if op == 0x39 then some .drop
  else if 0x40 ≤ op && op ≤ 0x43 then some .red
  else if op == 0x44 then some .cnt
  else if op == 0x48 then some .ld
  else if op == 0x49 then some .ldsc
  else if op == 0x4A then some .st
  else if op == 0x4B then some .stq
  else if op == 0x4C then some .stsc
  else if op == 0x4D then some .sc
  else if op == 0x50 then some .fd
  else none

/-- Operations with an operand A that FSRC can pop. -/
def VForm.hasA : VForm → Bool
  | .e1 | .e2 | .e3 | .am | .cv | .sc | .cmp | .sel | .sf | .drop | .red => true
  | _ => false

/-- Operations whose operand B is a V register under PB and SB. -/
def VForm.hasB : VForm → Bool
  | .e2 | .e3 | .am | .cmp | .sel => true
  | _ => false

def VForm.isLoad : VForm → Bool
  | .ld | .ldsc => true
  | _ => false

def VForm.isStore : VForm → Bool
  | .st | .stq | .stsc => true
  | _ => false

/-- Fields that a form names, as bits 0 VD, 1 VA, 2 VB, 3 VC, 4 SPA, 5 FMT, and the VAUX bits it allows
(R139, R140, R144 to R149). VC of a store names the index pair under SR only. -/
def VForm.uses (f : VForm) (sr : Bool) : Nat × Nat :=
  match f with
  | .e1 => (3, 1)
  | .e2 => (7, 0b1011)
  | .e3 => (15, 0b1111)
  | .am => (7, 0b11011)
  | .cv => (3, 0b110001)
  | .sc => (35, 1)
  | .cmp => (7, 0b1011)
  | .sel => (15, 0b1011)
  | .m1 => (3, 0)
  | .m2 => (7, 0)
  | .mld => (7, 0)
  | .sf => (3, 1)
  | .rand => (9, 0)
  | .drop => (15, 1)
  | .red => (3, 0b111)
  | .cnt => (3, 0)
  | .ld => (53, 0b111000)
  | .ldsc => (21, 0b110000)
  | .st => (51 + (if sr then 8 else 0), 0b111111)
  | .stq => (55 + (if sr then 8 else 0), 0b111111)
  | .stsc => (19, 0b010000)
  | .fd => (0, 0)

/-- FSRC is set and the operation pops (R137). -/
def VecSlot.fsrc (x : VecSlot) : Bool :=
  match vform x.vop with
  | some f => f.hasA && bit x.vaux 0
  | none => false

/-- The operation takes groups from the head of the finished-tile queue. -/
def VecSlot.pops (x : VecSlot) : Bool := x.fsrc || x.vop == 0x50

/-- Store in mode SR. -/
def VecSlot.sr (x : VecSlot) : Bool :=
  match vform x.vop with
  | some .st | some .stq => bits x.vaux 1 0 == 2
  | _ => false

/-- Index pair in use (R139). -/
def VecSlot.pair (x : VecSlot) : Bool := x.vop == 0x38 || x.vop == 0x39 || x.sr

/-- Row of a load or store (R144); no modulus, so that an address past the end shows. -/
def vecRow (k : Core) (x : VecSlot) : Nat :=
  x.spa + (k.s (if x.vop == 0x48 || x.vop == 0x49 then x.vb else x.vd)).toNat

/-- The vector slot reads scratchpad rows. -/
def vecRows (k : Core) (x : VecSlot) : List (Nat × Nat) :=
  if x.vop == 0x48 || x.vop == 0x49 then [(vecRow k x, 8)] else []

/-- S registers that a vector operation reads or writes. -/
def vecRegs (x : VecSlot) : List Nat :=
  match vform x.vop with
  | none => []
  | some f =>
    (if f.isLoad then [x.vb] else []) ++ (if f.isStore then [x.vd] else []) ++
      (if x.pair then [x.vc, x.vc + 1] else []) ++ (if f.hasB && bit x.vaux 3 then [x.vb] else []) ++
      (if f == .drop then [x.vb] else []) ++ (if f == .mld then [x.va, x.vb] else []) ++
      (if f == .cnt then [x.vd] else []) ++
      (if f == .red && bit x.vaux 1 then (if bit x.vaux 2 then [x.vd, x.vd + 1] else [x.vd]) else [])

/-- V registers that an operation reads as data. -/
def vecReads (x : VecSlot) : List Nat :=
  match vform x.vop with
  | none => []
  | some f =>
    (if f.hasA && !x.fsrc || f.isStore then [x.va] else []) ++
      (if (f.hasB && !bit x.vaux 3) || f == .stq then [x.vb] else []) ++ (if f == .e3 then [x.vc] else [])

/-- Mask registers that an operation reads as data or as its lane mask. -/
def maskReads (x : VecSlot) : List Nat :=
  match vform x.vop with
  | none => []
  | some f =>
    (if x.men then [x.msk] else []) ++ (if f == .sel then [x.vc % 8] else []) ++
      (if f == .m1 || f == .m2 || f == .cnt then [x.va % 8] else []) ++ (if f == .m2 then [x.vb % 8] else [])

/-- Vector data formats (Table 06-5): elements per row, element bits, MX emax. -/
structure VFmt where
  e : Nat
  w : Nat
  emax : Option Int
deriving DecidableEq, Repr

def vfmt : Nat → Option VFmt
  | 0x0 => some ⟨16, 32, none⟩
  | 0x1 => some ⟨16, 32, none⟩
  | 0x2 => some ⟨32, 16, none⟩
  | 0x3 => some ⟨32, 16, none⟩
  | 0x4 => some ⟨64, 8, some 8⟩
  | 0x5 => some ⟨64, 8, some 15⟩
  | 0x6 => some ⟨64, 8, none⟩
  | 0x7 => some ⟨64, 8, some 0⟩
  | 0x8 => some ⟨64, 6, some 2⟩
  | 0x9 => some ⟨64, 6, some 4⟩
  | 0xA => some ⟨128, 4, some 2⟩
  | 0xB => some ⟨128, 4, none⟩
  | 0xC => some ⟨256, 2, some 0⟩
  | _ => none

/-- Lane and element pairs of a load or store (R144); none where the format does not allow ILV or G. -/
def laneMap (fmt g : Nat) (ilv : Bool) : Option (List (Nat × Nat)) :=
  match vfmt fmt with
  | none => none
  | some f =>
    if !ilv then
      if f.e ≤ 64 then
        if g < 64 / f.e then some ((upto f.e).map fun i => (g * f.e + i, i)) else none
      else if g < f.e / 64 then some ((upto 64).map fun i => (i, g * 64 + i)) else none
    else if f.w == 16 then
      if g ≤ 1 then some ((upto 32).map fun j => (32 * g + j, j)) else none
    else if f.w == 8 || f.w == 6 then
      if g == 0 then some ((upto 64).map fun l => (l, 2 * (l % 32) + l / 32)) else none
    else if f.w == 4 then
      if g ≤ 1 then some ((upto 64).map fun l => (l, 4 * (l % 32) + 2 * g + l / 32)) else none
    else none

/-! ### Tokens of a bundle (Table 03-11) -/

/-- Cost of the operations that the bundle starts in its issue cycle. -/
def bundleTokens (b : Bundle) : Nat :=
  (if b.scl.op == 0x18 || b.scl.op == 0x19 then 1 else 0) +
    (if b.mat.mop == 1 then (arrays b.mat.en).length * tagTokens b.mat.fmt else 0) + (matRows b.mat).length +
    (if b.vec.vop == 0 then 0 else 4) + (if b.vec.vop == 0x48 || b.vec.vop == 0x49 then 1 else 0)

end Sys2Proof.Machine
end

