-- ==== Sys2Proof/Machine/Checks.lean ====
section
/-!
DEFINITION. Violations found at issue in the header and in the scalar, matrix, vector and local-memory slots (Tables
03-12, 04-7, 06-7, 07-7), and the interlocks of R61 that these slots have.
-/

namespace Sys2Proof.Machine

/-- Q_MBX_CFG of mailbox m, and its BASE. -/
def Core.mbxCfg (k : Core) (m : Nat) : Nat := k.reg64 (rMbxCfg m)
def mbBase (w : Nat) : Nat := bits w 13 0

/-- The row holds the header of a record that a mailbox has taken and not freed (Table 16-2). -/
def Core.headerRow (k : Core) (row : Nat) : Bool :=
  k.mbs.any fun x => x.2.heads.any fun h => (mbBase (k.mbxCfg x.1) + h / 64) % nRows == row

/-- A violation found at issue: slot, fault code (R424), address logged, counter. -/
structure Viol where
  slot : Nat
  code : Nat
  addr : Nat
  cnt : Nat
deriving DecidableEq, Repr

/-- One row of a violation table, if its condition holds. -/
def vrow (bad : Bool) (v : Viol) : List Viol := if bad then [v] else []

/-- Reserved value in a slot (Table 03-12, row 1). -/
def rsvViol (slot i : Nat) : Viol := ⟨slot, 0x31, i, rCoreViol⟩

/-- The violations of a slot: a reserved value first, then those of the slot's own table (R284: each counts). -/
def slotViols (rsv : Bool) (slot i : Nat) (rows : List Viol) : List Viol := vrow rsv (rsvViol slot i) ++ rows

/-! ### Header and scalar slot -/

def sclRsv (fv2 : Bool) (x : SclSlot) : Bool :=
  if x.op == 0 then false
  else match sclUses x.op with
    | none => true
    | some u =>
      (!bit u 0 && x.rd != 0) || (!bit u 1 && x.rs1 != 0) || (!bit u 2 && x.rs2 != 0) || (!bit u 3 && x.imm != 0) ||
        ((x.op == 0x28 || x.op == 0x29) && x.rd ≥ 4) ||
        (isBranch x.op && x.op != 0x27 && x.imm ≥ 2048) ||
        (x.op == 0x30 && (x.imm > 11 || (fv2 && x.imm == 11)))

/-- Rows 1 to 4 of Table 03-12 in header and scalar slot. -/
def headViols (k : Core) (b : Bundle) (i : Nat) : List Viol :=
  vrow (b.rsv != 0) (rsvViol 0 i) ++
    vrow (k.is.next ≥ 2048) ⟨0, 0x33, 2047, rCoreViol⟩ ++
    slotViols (sclRsv k.fv2 b.scl) 1 i
      (vrow (isBranch b.scl.op && (k.is.delay || b.mark)) ⟨1, 0x32, i, rCoreViol⟩ ++
        vrow ((b.scl.op == 0x18 || b.scl.op == 0x19) && !sclAddrOk (sclAddr k b.scl))
          ⟨1, 0x34, sclAddr k b.scl, rCoreViol⟩)

/-! ### Matrix slot -/

def Core.bank (k : Core) (a n : Nat) : Bank := aget .init k.mx.banks (2 * a + n)

def Core.setBank (k : Core) (a n : Nat) (b : Bank) : Core :=
  { k with mx := { k.mx with banks := aput k.mx.banks (2 * a + n) b } }

def Core.latch (k : Core) (a : Nat) : Latch := aget .init k.mx.latch a

def Core.setLatch (k : Core) (a : Nat) (l : Latch) : Core :=
  { k with mx := { k.mx with latch := aput k.mx.latch a l } }

/-- MA_CTRL.ACCM (R97). -/
def Core.accm (k : Core) : Bool := bit (k.reg rMaCtrl) 0

def matRsv (fv2 : Bool) (x : MatSlot) : Bool :=
  let idle := (!bit x.en 0 && x.a0 != 0) || (!bit x.en 1 && x.a1 != 0)
  if x.mop == 0 then false
  else if x.mop == 1 then
    x.en != 0 && ((tagOf x.fmt).isNone || idle ||
      (fv2 && (x.fmt == 0xE || x.glz || (x.axis == 0 && x.sel != 0) || x.half != 0)))
  else if x.mop == 2 || x.mop == 3 then
    x.fmt != 0 || x.axis != 0 || x.wsa != 0 || x.a0 != 0 || x.a1 != 0 || x.maux != 0
  else if x.mop == 4 then x.fmt != 0 || x.axis != 0 || x.bank != 0 || x.maux != 0 || idle
  else true

/-- Rows of Table 04-7 that an MMA with a defined tag breaks. -/
def mmaRows (k : Core) (x : MatSlot) (t : Tag) : List Nat :=
  let as := arrays x.en
  let banks := as.map fun a => k.bank a x.bank
  let c := x.wsa / 4
  let e := 16 / t.w.width
  let tr := x.axis == 1
  let rk := effRank t x.axis
  let row (n : Nat) (b : Bool) : List Nat := if b then [n] else []
  row 1 (x.wsa % 4 != 0 || (tr && c + 32 / e > 1024)) ++
    row 2 (as.any fun a => x.row a ≥ nRows || (!tr && x.fmt == 0xE && x.row a % 2 == 1)) ++
    row 3 (x.srd && ((as.any fun a => x.row a == 0) || x.wsa < 4 || !t.scaled ||
      (!x.init && banks.any fun b => b.phase != 0))) ++
    row 4 (!x.init && banks.any fun b => b.st == 1 &&
      ((b.phase != 0 && (b.rank != rk || b.scaled != t.scaled)) || b.int != t.integer)) ++
    row 5 (if tr then (t.scaled && x.fmt != 0xE) || (x.fmt != 0xE && c % (32 / e) != 0) || x.sel ≥ 32 / rk ||
        (x.half != 0 && x.fmt != 0xE)
      else x.half != 0) ++
    row 6 (!x.init && banks.any fun b => b.st == 0) ++
    row 7 ((x.glz && (tr || t.integer || (!x.init && banks.any fun b => b.int))) ||
      (!tr && (x.sel % 2 == 1 || (x.sel != 0 && !x.glz)))) ++
    row 8 (k.accm && (t.scaled || x.srd || as.any fun a =>
      match (k.latch a).last with
      | some p => k.is.clk < p + 4
      | none => false))

def matRowsBad (k : Core) (x : MatSlot) : List Nat :=
  if x.mop == 1 then
    (if x.en == 0 then [] else match tagOf x.fmt with | some t => mmaRows k x t | none => [])
  else if x.mop == 2 then
    (if (arrays x.en).any fun a => (k.bank a x.bank).st == 0 then [6] else [])
  else if x.mop == 4 then
    (if x.wsa % 4 != 0 || (bit x.en 1 && x.wsa / 4 + 1 ≥ 1024) then [1] else []) ++
      (if (arrays x.en).any fun a => x.row a ≥ nRows then [2] else [])
  else []

def matViols (k : Core) (x : MatSlot) (i : Nat) : List Viol :=
  slotViols (matRsv k.fv2 x) 2 i ((matRowsBad k x).map fun r => ⟨2, 0x40 + r, i, rMaViol⟩)

/-- Free finished-tile queue entries (R92). -/
def Core.ftqFree (k : Core) : Nat := ((upto 4).filter fun e => (aget FtqEntry.init k.mx.ftq e).st == 0).length

/-- Queue entries that the bundle's retirements need. -/
def ftqNeed (k : Core) (x : MatSlot) : Nat :=
  if x.mop == 1 && x.last then (arrays x.en).length
  else if x.mop == 2 then ((arrays x.en).filter fun a => (k.bank a x.bank).st == 1).length
  else 0

/-- Interlock BANK (R61, R88, R89, R92). -/
def bankHeld (k : Core) (x : MatSlot) : Bool :=
  (x.mop == 1 || x.mop == 2 || x.mop == 3) && x.en != 0 &&
    ((arrays x.en).any (fun a => (k.bank a x.bank).st == 2) || decide (k.ftqFree < ftqNeed k x))

/-! ### Vector slot -/

def Core.ftqHead (k : Core) : FtqEntry := aget .init k.mx.ftq k.mx.head

/-- Interlock FTQ (R137, R138). -/
def ftqHeld (k : Core) (x : VecSlot) : Bool := x.pops && k.ftqHead.st != 3

def vecRsv (fv2 : Bool) (x : VecSlot) : Bool :=
  if x.vop == 0 then false
  else match vform x.vop with
    | none => true
    | some f =>
      let u := f.uses x.sr
      let rnd := bits x.vaux 1 0
      let allow := u.2 ||| (if f.hasA || f.isStore then 0 else 1)
      (!bit u.1 0 && x.vd != 0) || (!bit u.1 1 && x.va != 0) || (!bit u.1 2 && x.vb != 0) ||
        (!bit u.1 3 && x.vc != 0) || (!bit u.1 4 && x.spa != 0) || (!bit u.1 5 && x.fmt != 0) ||
        x.vaux &&& (63 - allow) != 0 || (bit u.1 5 && (vfmt x.fmt).isNone) ||
        ((f == .st || f == .stq) && rnd == 3) || (f == .cv && bits x.vaux 5 4 == 3) ||
        (fv2 && ((bit u.1 5 && x.fmt == 0xC) || x.vop == 0x44 ||
          (f.hasB && bit x.vaux 1) || (f == .e3 && bit x.vaux 2)))

/-- Row 2 of Table 06-7: G, ILV, RND, SAT, format. -/
def vecFormBad (f : VForm) (x : VecSlot) : Bool :=
  let g := bits x.vaux 5 4
  let ilv := bit x.vaux 3
  let mx := ((vfmt x.fmt).bind fun y => y.emax).isSome
  match f with
  | .ld => (laneMap x.fmt g ilv).isNone
  | .ldsc => decide (g > 1)
  | .st | .stq =>
    (laneMap x.fmt g ilv).isNone || (x.fmt ≤ 1 && bits x.vaux 2 0 != 0) ||
      ((x.fmt == 6 || x.fmt == 0xB) && bits x.vaux 1 0 != 0) || (f == .stq && !mx)
  | .sc => !mx
  | .cv => g == 2
  | _ => false

def vecRowsBad (k : Core) (x : VecSlot) : List Nat :=
  match vform x.vop with
  | none => []
  | some f =>
    let row (n : Nat) (b : Bool) : List Nat := if b then [n] else []
    row 1 ((f.isLoad || f.isStore) && vecRow k x ≥ nRows) ++
      row 2 (vecFormBad f x) ++
      row 3 ((f.hasB && bit x.vaux 1 && !bit x.vaux 0) || (f == .e3 && bit x.vaux 2 && !bit x.vaux 0) ||
        (f.hasB && bit x.vaux 3 && bit x.vaux 1) || (x.fsrc && x.va != 0) ||
        (!f.hasA && !f.isStore && bit x.vaux 0)) ++
      row 4 (x.pair && (x.vc % 2 == 1 || x.vc == 0)) ++
      row 5 (f == .sf && match k.ve.lastF with
        | some p => k.is.clk < p + 4
        | none => false) ++
      row 6 ((x.vd == 31 && (x.vop == 0x0D || (f == .red && bits x.vaux 2 1 == 3))) ||
        ((f == .cmp || f == .m1 || f == .m2 || f == .mld) && x.vd ≥ 8) ||
        ((f == .m1 || f == .m2 || f == .cnt) && x.va ≥ 8) || (f == .m2 && x.vb ≥ 8) || (f == .sel && x.vc ≥ 8) ||
        ((f == .cnt || f == .fd) && (x.men || x.msk != 0)))

def vecViols (k : Core) (x : VecSlot) (i : Nat) : List Viol :=
  slotViols (vecRsv k.fv2 x) 3 i ((vecRowsBad k x).map fun r => ⟨3, 0x60 + r, i, rVeViol⟩)

/-! ### Local-memory slot -/

/-- LEN in rows; 0 means 256. -/
def LmsSlot.rows (x : LmsSlot) : Nat := if x.len == 0 then 256 else x.len

def lmsRsv (fv2 : Bool) (x : LmsSlot) : Bool := x.lop > 3 || (fv2 && x.lop == 3)

/-- Intervals of rows meet (R167). -/
def meets (a la b lb : Nat) : Bool := a ≤ lb && b ≤ la

def lmsRowsBad (k : Core) (x : LmsSlot) : List Nat :=
  if x.lop == 0 || x.lop > 3 then []
  else
    let d := (k.s x.sd).toNat
    let v := (k.s x.ss).toNat
    let r := bits d 13 0
    let n := x.rows
    let row (m : Nat) (b : Bool) : List Nat := if b then [m] else []
    let lastD := r + (n - 1) * x.dstr
    let src := bits v 13 0
    let lastS := src + (n - 1) * x.sstr
    row 1 (k.lm.length ≥ 4) ++
      row 2 (bits d 15 14 != 0 || bits d 31 24 != 0 || bits d 22 16 > 127 || (x.lop == 2 && v ≥ nRows)) ++
      row 3 (x.lop != 3 && (lastD ≥ nRows || (x.lop == 2 && lastS ≥ nRows) || (x.lop == 1 && x.sstr != 0) ||
        (x.dstr == 0 && n != 1))) ++
      row 4 (x.lop == 2 && meets src lastS r lastD) ++
      row 5 (x.lop == 3 && (r % 64 != 0 || r / 64 + n > 256 || (x.dstr % 4 != 0 && x.dstr % 4 != 2) ||
        x.dstr ≥ 4 || x.ss != 0 || x.sstr != 0))

def lmsViols (k : Core) (x : LmsSlot) (i : Nat) : List Viol :=
  slotViols (lmsRsv k.fv2 x) 4 i ((lmsRowsBad k x).map fun r => ⟨4, 0x70 + r, i, rSpViol⟩)

/-- S registers that a local-memory slot reads. -/
def lmsRegs (x : LmsSlot) : List Nat := if x.lop == 0 then [] else [x.sd, x.ss]

/-! ### Checked reads and the FV2 latency hold -/

/-- Rows that the bundle reads checked (R46, R163), where the S registers that give their addresses have their values. -/
def checkedRows (k : Core) (b : Bundle) : List Nat :=
  (if b.chkM then (matRows b.mat).map (·.1) else []) ++
    (if b.chkV && !(vecRegs b.vec).any k.sPending then (vecRows k b.vec).map (·.1) else []) ++
    (if b.scl.op == 0x18 && !k.sPending b.scl.rs1 then [sclAddr k b.scl / 64] else [])

/-- Rows that the bundle reads, with rank. -/
def readRows (k : Core) (b : Bundle) : List (Nat × Nat) :=
  matRows b.mat ++ vecRows k b.vec ++ (if b.scl.op == 0x18 then [(sclAddr k b.scl / 64, 10)] else [])

/-- An effect under way lies in the FV2 gap and the bundle reads its destination (R212); sregs are the S registers
that the bundle names. -/
def gapRead (b : Bundle) (rows sregs : List Nat) (d : Due) : Bool :=
  match d.eff with
  | .sreg r _ => r != 0 && sregs.contains r
  | .row _ r _ _ => rows.contains r
  | .rowPart _ r _ _ => rows.contains r
  | .vreg r _ _ _ => (vecReads b.vec).contains r
  | .mreg r _ _ _ _ => (maskReads b.vec).contains r
  | .wcol c _ _ => (matCols b.mat).contains c
  | _ => false

end Sys2Proof.Machine
end

