-- ==== Sys2Proof/Machine/Sync.lean ====
section
/-!
DEFINITION. Semaphores (R252 to R266), routes, queues and mailboxes (R267 to R277): addresses, sending to a home,
waits of the parties, closing, and the messages between cores.
-/

namespace Sys2Proof.Machine

/-- Fields of a global address (R289). -/
def gaCoord (a : Nat) : Nat := bits a 63 52
def gaSpace (a : Nat) : Nat := bits a 51 48
def gaOff (a : Nat) : Nat := bits a 47 0
def gaMake (coord space off : Nat) : Nat := coord <<< 52 + space <<< 48 + off

/-- Home of a SYNC offset (Table 11-1): cores 0 to 1,791, bays from 1,792, dies from 1,824, the hub 1,828. -/
def semPlace (off : Nat) : Option Nat :=
  if off % 4 != 0 then none
  else if off < 0xE0000 then some (off / 0x200)
  else if 0x100000 ≤ off && off < 0x108000 then some (1792 + (off - 0x100000) / 0x400)
  else if 0x110000 ≤ off && off < 0x114000 then some (1824 + (off - 0x110000) / 0x1000)
  else if 0x120000 ≤ off && off < 0x124000 then some 1828
  else none

/-- Entries of a home's wait store (R260). -/
def waitStore (place : Nat) : Nat :=
  if place < 1792 then 16 else if place < 1824 then 64 else if place < 1828 then 256 else 1024

/-- Offset of own-core semaphore n. -/
def ownSem (c n : Nat) : Nat := 0x200 * c + 4 * n

/-- Value of the semaphore at a SYNC offset. -/
def State.semVal (s : State) (off : Nat) : Word := aget 0#32 s.sem off

def State.setSem (s : State) (off : Nat) (v : Word) : State := { s with sem := aput s.sem off v }

/-- Saturating signed addition (R254). -/
def satSem (v : Word) (d : Int) : Word := BitVec.ofInt 32 (max (-(2 ^ 31)) (min (2 ^ 31 - 1) (v.toInt + d)))

/-- Place of another device among the senders of one cycle: behind every core of this one (R171, R259). -/
def SemMsg.sender (m : SemMsg) : Nat :=
  match m.rem with
  | some (y, _) => farSender y
  | none => m.core

/-- Operations that arrive in one cycle stand in the order of their senders (R259). -/
def insMsg (m : SemMsg) : List SemMsg → List SemMsg
  | [] => [m]
  | x :: xs => if m.sender < x.sender then m :: x :: xs else x :: insMsg m xs

/-- An operation joins those that have arrived at a home of this device. -/
def State.toHome (s : State) (place : Nat) (m : SemMsg) : State :=
  { s with semIn := aput s.semIn place (insMsg m (aget [] s.semIn place)) }

/-! ### Fabric requests of this device -/

/-- Distance in set bits. -/
def popcount (n : Nat) : Nat := (upto 12).countP fun i => bit n i

/-- Every device of the machine is FV3 (R329). -/
def State.allFv3 (s : State) : Bool := s.fab.gens.isEmpty

/-- The fold port is usable (R332). -/
def State.foldUsable (s : State) : Bool :=
  decide (2 ≤ s.fab.dims) && s.allFv3 && s.partMask == 2 ^ s.fab.dims - 1

/-- R333; none for LOCAL. -/
def nextPort (fold : Bool) (n src dst : Nat) : Option Nat :=
  let d := src ^^^ dst
  if d == 0 then none
  else if fold && decide (2 * popcount d > n + 1) then some 12
  else (upto 12).find? fun i => bit d i

/-- A link of generation gen carries the transaction (R350, Table 14-7); x is the kind of a SEM_OP. -/
def carries (gen op dst x : Nat) : Bool :=
  if gen == 1 then
    decide (dst < 256) && op != 0x04 && op != 0x05 && op != 0x06 && op != 0x26 && !(op == 0x03 && x == 2)
  else if gen == 2 then decide (dst < 1024)
  else true

/-- A transaction leaves through the port that routing gives; x carries what Table 14-4 names beside address and
data. false where no usable port carries it (R334, R350). -/
def State.fabSend (s : State) (op dst tag addr : Nat) (data : List Byte) (poison : Bool) (x : List Nat) : State × Bool :=
  match nextPort s.foldUsable s.fab.dims s.fab.coord dst with
  | none => (s, false)
  | some p =>
    if !(s.port p).usable then (s.bumpD 0x20001C, false)
    else if !carries (s.port p).gen op dst (x.headD 0) then (s.bumpD 0x200020, false)
    else (s.sendOn p s.fab.coord op dst tag addr data poison x, true)

/-- A request that waits for its response (R338); false where the source refuses it (R332, R334). -/
def State.fabRequest (s : State) (op core party kind x dst addr deadline : Nat) (data : List Byte) (poison : Bool)
    (extra : List Nat) : State × Bool :=
  if !s.inPartition dst then (s, false)
  else
    let tag := s.fab.nextTag
    let r := s.fabSend op dst tag addr data poison extra
    if r.2 then
      ({ r.1 with fab := { r.1.fab with nextTag := (tag + 1) % 65536,
                                        reqs := r.1.fab.reqs ++ [⟨tag, core, party, kind, x, deadline⟩] } }, true)
    else r

/-- An operation of a party leaves for its home; to another device a subtraction goes as SEM.SUB (kind 3), so that its amount is
unsigned (R257, Table 14-4). false where it receives an error response (R253, Table 11-12). -/
def State.semSend (s : State) (c party kind addr : Nat) (amount : Int) (deadline serial : Nat) : State × Bool :=
  if gaCoord addr == s.fab.coord then
    match semPlace (gaOff addr) with
    | none => (s, false)
    | some place => (s.toHome place ⟨c, party, none, gaOff addr, kind, amount, deadline, serial⟩, true)
  else
    s.fabRequest 0x03 c party (if kind == 0 then 2 else 1) (if kind == 0 then serial else party) (gaCoord addr) addr deadline
      [] false [if amount < 0 then 3 else kind, amount.natAbs % 2 ^ 32, deadline]

/-- SEM.ADD of 1 to an own-core semaphore by an engine (Table 11-2); party 9 stands for posts that are not the bundle
pipeline's. -/
def State.ownPost (s : State) (c n serial : Nat) : State :=
  s.toHome c ⟨c, 9, none, ownSem c n, 0, 1, 0, serial⟩

/-- Serial of an update that no fence waits for. -/
def noSerial : Nat := 2 ^ 64

/-- An update by an engine, a panel or a stencil: party 10 and its number as Table 11-9 has them (a stencil and a panel 12 and
11, engine n 13 + n). -/
def State.postSend (s : State) (c party addr : Nat) (amount : Int) : State × Bool :=
  s.semSend c (10 + party) 0 addr amount 0 noSerial

/-! ### Waits of the parties -/

def Core.engine (k : Core) (n : Nat) : Engine := aget .init k.se n

def Core.setEngine (k : Core) (n : Nat) (e : Engine) : Core := { k with se := aput k.se n e }

/-- The wait of a party (Table 11-9). -/
def Core.waitOf (k : Core) (party : Nat) : Option Wait :=
  match party with
  | 0 => k.is.wait
  | 1 => k.pnl.wait
  | 2 => k.stn.wait
  | n => if n < 7 then (k.engine (n - 3)).wait else none

def Core.setWait (k : Core) (party : Nat) (w : Option Wait) : Core :=
  match party with
  | 0 => { k with is := { k.is with wait := w } }
  | 1 => { k with pnl := { k.pnl with wait := w } }
  | 2 => { k with stn := { k.stn with wait := w } }
  | n => if n < 7 then k.setEngine (n - 3) { k.engine (n - 3) with wait := w } else k

/-- A wait begins: its deadline is the limit from now (R263). -/
def State.beginWait (s : State) (c party addr count : Nat) (sub : Bool) : State × Bool :=
  let now := s.scr.now
  let dl := now + s.waitLimit
  let r := s.semSend c party (if sub then 2 else 1) addr count dl 0
  if r.2 then (r.1.modCore c fun k => k.setWait party (some ⟨addr, count, sub, now, dl, 0, 0⟩), true) else r

/-- The release has reached the party. -/
def released (w : Option Wait) : Bool :=
  match w with
  | some w => w.stage == 1
  | none => false

/-- Every wait of the parties that satisfy p is withdrawn from the homes, with its answers (R412, R438). -/
def State.withdraw (s : State) (p : Nat → Nat → Bool) : State :=
  let keep (m : SemMsg) : Bool := m.kind == 0 || m.rem.isSome || !p m.core m.party
  { s with semIn := s.semIn.map fun x => (x.1, x.2.filter keep),
           semLate := s.semLate.map fun x => (x.1, x.2.filter keep),
           semPark := s.semPark.map fun x => (x.1, x.2.filter keep),
           semAns := s.semAns.filter fun a => !p a.core a.party,
           fab := { s.fab with reqs := s.fab.reqs.filter fun r => !(r.kind == 1 && p r.core r.x) } }

/-! ### Routes, queues, mailboxes -/

def Core.rtCfg (k : Core) (r : Nat) : Nat := k.reg64 (rRtCfg r)
def Core.route (k : Core) (r : Nat) : Route := aget .init k.rts r
def Core.setRoute (k : Core) (r : Nat) (x : Route) : Core := { k with rts := aput k.rts r x }
def Core.queue (k : Core) (q : Nat) : InQ := aget .init k.qs q
def Core.setQueue (k : Core) (q : Nat) (x : InQ) : Core := { k with qs := aput k.qs q x }
def Core.mbx (k : Core) (m : Nat) : Mbx := aget .init k.mbs m
def Core.setMbx (k : Core) (m : Nat) (x : Mbx) : Core := { k with mbs := aput k.mbs m x }

/-- Fields of RT_CFG (Table 11-10). -/
def rtValid (w : Nat) : Bool := bit w 0
def rtMailbox (w : Nat) : Bool := bit w 1
def rtCore (w : Nat) : Nat := bits w 12 2
def rtQueue (w : Nat) : Nat := bits w 15 13
def rtCoord (w : Nat) : Nat := bits w 27 16
def rtRing (w : Nat) : Nat := bits w 44 28

/-- Route word that the sender's core logs (Table 11-6); a QUEUE route ends on the own device, coord. -/
def routeWord (r cfg coord : Nat) : Nat :=
  r + (b2n (rtMailbox cfg)) <<< 4 + rtCore cfg <<< 5 + (if rtMailbox cfg then rtCoord cfg else coord) <<< 16

/-- Fields of a handle-table entry (Table 07-8). -/
def Core.htAddr (k : Core) (h : Nat) : Nat := k.reg64 (rHt h)
def Core.htSize (k : Core) (h : Nat) : Nat := k.reg (rHt h + 8)
def Core.htValid (k : Core) (h : Nat) : Bool := bit (k.reg (rHt h + 12)) 0
def Core.htReadOnly (k : Core) (h : Nat) : Bool := bit (k.reg (rHt h + 12)) 1

/-- R173: n bytes at an offset of handle h resolve for a consumer of the given spaces. -/
def Core.resolves (k : Core) (h off n : Nat) (write : Bool) (spaces : List Nat) : Bool :=
  k.htValid h && spaces.contains (gaSpace (k.htAddr h)) && decide (off + n ≤ k.htSize h) &&
    !(write && k.htReadOnly h)

/-- The logged address of a handle that fails to resolve (R173). -/
def handleAddr (h off : Nat) : Nat := (Config.handleWord h off).toNat

/-- Space codes (Table 13-1). -/
def spHbm : Nat := 0
def spDdr : Nat := 1
def spSp : Nat := 2
def spSync : Nat := 3
def spMmio : Nat := 4
def spRec : Nat := 5

/-- Fields of Q_MBX_CFG. -/
def mbRows (w : Nat) : Nat := bits w 24 14
def mbSem (w : Nat) : Nat := bits w 31 25
def mbValid (w : Nat) : Bool := bit w 32
def mbCore (w : Nat) : Nat := bits w 43 33
def mbCoord (w : Nat) : Nat := bits w 55 44
def mbRoute (w : Nat) : Nat := bits w 58 56

/-- Route words of an inbound queue and of a mailbox, as the receiver logs them. -/
def queueWord (q : Nat) (src : Option (Nat × Nat)) (coord : Nat) : Nat :=
  q + (match src with | some x => x.1 <<< 5 + coord <<< 16 | none => 0)
def mbxWord (m cfg : Nat) : Nat := m + 16 + mbCore cfg <<< 5 + mbCoord cfg <<< 16

/-- How the header of MBX_REC, MBX_CREDIT and CLOSE names its target (log entry 15): the core in the place of an SP
address; below it the mailbox and the ring offset, or the route. -/
def mbxAddr (coord core m off : Nat) : Nat := gaMake coord 2 (core <<< 20 + m <<< 16 + off)
def routeAddr (coord core r : Nat) : Nat := gaMake coord 2 (core <<< 20 + r)

def State.onLath (s : State) (m : LathMsg) : State := { s with lath := s.lath ++ [m] }

/-- A core closes its inbound queues and mailboxes and sends close notices (R271, R272). -/
def State.closeInbound (s : State) (c : Nat) : State :=
  let s := (upto 8).foldl (fun s q =>
    let x := (s.core c).queue q
    if x.closed then s
    else
      let s := s.modCore c fun k => k.setQueue q { x with closed := true }
      match x.src with
      | some (d, r) => s.onLath (.close d r)
      | none => s) s
  (upto 4).foldl (fun s m =>
    let x := (s.core c).mbx m
    let cfg := (s.core c).mbxCfg m
    if x.closed then s
    else
      let s := s.modCore c fun k => k.setMbx m { x with closed := true }
      if !mbValid cfg then s
      else if mbCoord cfg == s.fab.coord then s.onLath (.close (mbCore cfg) (mbRoute cfg))
      else (s.fabSend 0x06 (mbCoord cfg) 0 (routeAddr (mbCoord cfg) (mbCore cfg) (mbRoute cfg)) [] false []).1) s

/-- Whether an operation that core c issued before the given serial is still on its way (R262). -/
def State.unapplied (s : State) (c serial : Nat) : Bool :=
  (s.lath.any fun m => match m with
    | .msg src _ _ _ n => src == c && n < serial
    | .record src _ _ _ n => src == c && n < serial
    | _ => false) ||
  ((s.semIn ++ s.semLate).any fun x => x.2.any fun m =>
    m.core == c && m.party == 8 && m.rem.isNone && m.kind == 0 && m.serial < serial) ||
  (s.fab.reqs.any fun r => r.core == c && (r.kind == 2 || r.kind == 3) && r.x < serial) ||
  ((s.core c).mbOut.any fun m => m.serial < serial) ||
  (s.cores.any fun x =>
    (x.2.ext.any fun r => match r.fin with | .record _ _ (some (d, n)) _ => d == c && n < serial | _ => false) ||
    (x.2.extWait.any fun r => match r.fin with | .record _ _ (some (d, n)) _ => d == c && n < serial | _ => false))

/-- A scratchpad write that the bundle pipeline issued before the serial is not visible (R262). -/
def Core.unwritten (k : Core) (serial : Nat) : Bool :=
  k.inflight.any fun d => match d.eff with
    | .row r _ _ _ => (r == 1 || r == 4) && d.serial < serial
    | .rowPart r _ _ _ => (r == 1 || r == 4) && d.serial < serial
    | _ => false

/-- The sync port sends what may leave: up to the first fenced update that must wait (R262). -/
def State.drainSync (s : State) (c : Nat) : Nat → State
  | 0 => s
  | n + 1 =>
    match (s.core c).sync with
    | [] => s
    | op :: rest =>
      if op.fence && (s.unapplied c op.serial || (s.core c).unwritten op.serial) then s
      else
        let s := s.modCore c fun k => { k with sync := rest }
        let r := s.semSend c 8 0 op.addr op.amount 0 op.serial
        (if r.2 then r.1 else r.1.violate c 0xB3 5 op.addr rQViol).drainSync c n

end Sys2Proof.Machine
end

