-- ==== Sys2Proof/Machine/LmEngine.lean ====
section
/-!
DEFINITION. The local-memory engine (R164 to R168) and the scrubber (R170): starts, row accesses of one cycle,
segment changes, completion.
-/

namespace Sys2Proof.Machine

/-- The device's bays are clocked (R170, Table 03-11). -/
def State.clocked (s : State) : Bool := s.ctl.st != stOff

/-- The first operation whose row accesses, or action, are not all done. -/
def Core.lmCur (k : Core) : Option LmOp := k.lm.find? fun o => o.visAt.isNone

/-- The current operation replaced. -/
def setCur : List LmOp → LmOp → List LmOp
  | [], _ => []
  | x :: xs, o => if x.visAt.isNone then o :: xs else x :: setCur xs o

def Core.setLm (k : Core) (o : LmOp) : Core := { k with lm := setCur k.lm o }

/-- Destination row of the row numbered i. -/
def LmOp.dst (o : LmOp) (i : Nat) : Nat := o.row + i * o.dstr

/-- The bytes of a fill row (R166). -/
def fillRow (pattern : Nat) : List (Option Byte) :=
  ((List.replicate 16 (toBytes 4 pattern)).flatten).map some

/-- A row of the operation is written in cycle cyc (rank LM_WR) and becomes visible three cycles later. -/
def Core.lmWrote (k : Core) (o : LmOp) (bytes : List (Option Byte)) (p : Bool) (cyc : Nat) : Core :=
  let row := o.dst o.wr
  let last := o.wr + 1 == o.len
  let k := k.usePort true row 2
  let k := { k with inflight := k.inflight ++
    [(⟨.row 2 row bytes p, false, cyc + 3, cyc + (if o.lop == 2 then 1 else 2), o.serial, 0⟩ : Due)] }
  let k := k.setLm { o with wr := o.wr + 1, buf := if o.lop == 2 then o.buf.drop 1 else o.buf,
                            visAt := if last then some (cyc + 3) else none }
  (if last then { k with lmFree := cyc + 1 } else k).bump rSpLmRows

/-- The write that the engine wants in this cycle, if any: bytes and poison. -/
def LmOp.wants (o : LmOp) (cyc : Nat) : Option (List (Option Byte) × Bool) :=
  if !o.started then none
  else if o.lop == 1 then some (fillRow o.src, false)
  else match o.buf with
    | (t, v, p) :: _ => if o.lop == 2 && t ≤ cyc then some (wholeRow v, p) else none
    | [] => none

/-- The engine's write of this cycle (R63, R64). -/
def Core.lmWrite (k : Core) (cyc : Nat) : Core :=
  match k.lmCur with
  | none => k
  | some o =>
    match o.wants cyc with
    | none => k
    | some (bytes, p) =>
      if !k.is.granted then k
      else if k.portTaken true (o.dst o.wr) then k.held
      else k.lmWrote o bytes p cyc

/-- The source row that the engine reads in this cycle, port permitting (R167, R163, R212). -/
def Core.lmReadRow (k : Core) (cyc : Nat) : Option Nat :=
  match k.lmCur with
  | none => none
  | some o =>
    let row := o.src + o.rd * o.sstr
    if o.lop == 2 && o.started && decide (o.rd < o.len) && (!o.chk || k.landed row) && !(o.fv2 && k.rowGap row cyc) then
      some row
    else none

/-- The engine's source read of this cycle (R167, R163, R212). -/
def State.lmRead (s : State) (c : Nat) : State :=
  let k := s.core c
  let cyc := s.cyc c
  match k.lmCur with
  | none => s
  | some o =>
    let row := o.src + o.rd * o.sstr
    if o.lop != 2 || !o.started || o.rd ≥ o.len || !k.is.granted then s
    else if o.chk && !k.landed row then
      s.setCore c (k.setLm { o with heldSince := some (o.heldSince.getD s.scr.now) })
    else if o.fv2 && k.rowGap row cyc then s.setCore c (k.bump rFv2Hold)
    else if k.portTaken false row then s.setCore c k.held
    else
      let s := s.setCore c (k.usePort false row 9)
      let r := s.readRow c row
      r.1.modCore c fun k =>
        k.setLm { o with rd := o.rd + 1, heldSince := none, buf := o.buf ++ [(cyc + 6, r.2.1, r.2.2)] }

/-- LM_OP_START: the oldest operation that has not started starts once the ones before it have made their last row
access (R164); a fill writes its first row in the same cycle. -/
def State.lmStart (s : State) (c : Nat) : State :=
  let k := s.core c
  let cyc := s.cyc c
  match k.lmCur with
  | none => s
  | some o =>
    if o.started || decide (cyc < k.lmFree) then s
    else s.setCore c ((k.setLm { o with started := true }).lmWrite cyc)

/-- LSEG acts (R168); where a segment is FILLING the hold begins. -/
def State.lsegAct (s : State) (c : Nat) : State :=
  let k := s.core c
  let cyc := s.cyc c
  match k.lmCur with
  | none => s
  | some o =>
    let segs := (upto o.len).map fun i => o.row / 64 + i
    let early := k.lm.any fun x => match x.visAt with | some t => decide (cyc < t) | none => false
    if o.lop != 3 || !o.started || early then s
    else if segs.any fun n => k.segState n == segFilling then
      s.setCore c (k.setLm { o with heldSince := some (o.heldSince.getD s.scr.now) })
    else
      let acts : List Due := segs.map fun n => ⟨.seg n (o.dstr % 4), false, cyc + 1, cyc + 1, o.serial, 0⟩
      let k := { k with inflight := k.inflight ++ acts }
      let k := k.setLm { o with visAt := some cyc, heldSince := none }
      s.setCore c { k with lmFree := cyc + 1 }

/-- The post of an operation waits at its home. -/
def State.postWaits (s : State) (c serial : Nat) : Bool :=
  (aget [] s.semIn c).any fun m => m.core == c && m.rem.isNone && m.kind == 0 && m.serial == serial

/-- The oldest operation completes: its post leaves, and once that is applied it leaves the queue (R164, R165). -/
def State.lmComplete (s : State) (c : Nat) : State :=
  let k := s.core c
  match k.lm with
  | [] => s
  | o :: rest =>
    match o.visAt with
    | none => s
    | some t =>
      if s.cyc c < t then s
      else if o.post && !o.posted then
        (s.setCore c { k with lm := { o with posted := true } :: rest }).ownPost c o.sem o.serial
      else if o.post && s.postWaits c o.serial then s
      else s.setCore c { k with lm := rest }

/-! ### Scrubbing (R170) -/

def Core.scrubInterval (k : Core) : Nat := bits (k.reg rSpScrub) 15 0

/-- SCRUB_READ: the scrub read of this interval is presented. -/
def State.scrubRead (s : State) (c : Nat) : State :=
  let k := s.core c
  if !s.clocked || k.scrubInterval == 0 || k.sp.scrubLeft != 0 then s
  else s.setCore c { k with sp := { k.sp with scrubReq := true, scrubLeft := k.scrubInterval } }

/-- The port decision on the scrub read that is presented, after every other read of the cycle, whose lowest rank it
has (R63, R170): held, or the row whose turn it is is read. -/
def State.scrubServe (s : State) (c : Nat) : State :=
  let k := s.core c
  let row := k.sp.scrubPos
  if !k.sp.scrubReq then s
  else if k.portTaken false row then s.setCore c k.held
  else
    let ue := !(k.rowErrs row 2).isEmpty
    let ce := !(k.rowErrs row 1).isEmpty
    let s := s.setCore c (k.usePort false row 12)
    let r := s.readRow c row
    let cyc := s.cyc c
    r.1.modCore c fun k =>
      { k with sp := { k.sp with scrubPos := (row + 1) % nRows, scrubReq := false,
                                 scrubWb := k.sp.scrubWb ++ (if ue || ce then [(row, cyc, ue)] else []) } }

/-- A write to the row has been served and has not committed yet. -/
def Core.rowServed (k : Core) (row cyc : Nat) : Bool :=
  k.inflight.any fun d => match d.eff with
    | .row _ r _ _ => r == row && decide (d.due ≤ (if d.pipe then k.is.clk else cyc) + 3)
    | _ => false

/-- The write-backs of corrected or poisoned rows that are still due: one is dropped when another write to its row has
been served since its read. -/
def Core.dropBacks (k : Core) (cyc : Nat) : Core :=
  { k with sp := { k.sp with scrubWb := k.sp.scrubWb.filter fun x => !k.rowServed x.1 cyc } }

/-- The oldest write-back whose row has been read, at the lowest rank (R63); it commits in three cycles (R157). The
bytes stay as they are. -/
def Core.scrubBack (k : Core) (cyc : Nat) : Core :=
  let k := k.dropBacks cyc
  match k.sp.scrubWb with
  | [] => k
  | (row, t, ue) :: rest =>
    if cyc < t + 6 then k
    else if k.portTaken true row then k.held
    else
      let k := k.usePort true row 12
      { k with sp := { k.sp with scrubWb := rest },
               inflight := k.inflight ++ [⟨.scrubbed row ue, false, cyc + 3, cyc + 3, k.is.serial, 0⟩] }

/-- Row accesses that the scrubber presents in a cycle (Table 03-11). -/
def Core.scrubWants (k : Core) (cyc : Nat) : Nat :=
  b2n k.sp.scrubReq + b2n (match k.sp.scrubWb with | (_, t, _) :: _ => decide (t + 6 ≤ cyc) | [] => false)

/-- `LM_OP_START` (R164). -/
def execLmOpStart (c : Nat) (s : State) : Res := onCore c s fun s => s.lmStart c

/-- `LSEG_ACT` (R168). -/
def execLsegAct (c : Nat) (s : State) : Res := onCore c s fun s => s.lsegAct c

/-- `LM_OP_COMPLETE` (R165). -/
def execLmOpComplete (c : Nat) (s : State) : Res := onCore c s fun s => s.lmComplete c

/-- `SCRUB_READ` (R170). -/
def execScrubRead (c : Nat) (s : State) : Res := onCore c s fun s => s.scrubRead c

end Sys2Proof.Machine
end

