-- ==== Sys2Proof/Machine/StreamOps.lean ====
section
/-!
DEFINITION. Stream engines (R222 to R250): instruction fields, the program check of SGO, starting, stopping and
faulting an engine, tags, address checks, segment holds and the rows and words that a transfer reads.
-/

namespace Sys2Proof.Machine

/-! ### Instructions (Tables 10-2, 10-3) -/

/-- Instruction j of engine n (R224, R251). -/
def Core.sInstr (k : Core) (n j : Nat) : Nat := k.reg64 (rSeProg n j)

def siOp (w : Nat) : Nat := bits w 5 0
/-- D, SRC or REG. -/
def siD (w : Nat) : Nat := bits w 8 6
def siH (w : Nat) : Nat := bits w 14 9
def siS (w : Nat) : Nat := bits w 17 15
def siSelA (w : Nat) : Nat := bits w 19 18
def siImm (w : Nat) : Int := sext 44 (bits w 63 20)
def siDst (w : Nat) : Nat := bits w 11 9
def siX (w : Nat) : Nat := bits w 14 12
def siPos (w : Nat) : Nat := bits w 17 15
def siPage (w : Nat) : Bool := bit w 18
def siKeep (w : Nat) : Bool := bit w 19
def siInc (w : Nat) : Bool := bit w 20
def siLines (w : Nat) : Nat := bits w 28 21 + 1
def siSstr (w : Nat) : Int := 64 * sext 16 (bits w 44 29)
def siDstr (w : Nat) : Int := 64 * sext 16 (bits w 60 45)
def siSelC (w : Nat) : Nat := bits w 10 9
def siSub (w : Nat) : Bool := bit w 11
def siTarget (w : Nat) : Nat := bits w 16 12
def siVal (w : Nat) : Nat := bits w 63 32
def siRate (w : Nat) : Nat := bits w 21 6
def siBurst (w : Nat) : Nat := bits w 29 22
def siTagq (w : Nat) : Nat := bits w 34 30

/-- The formats and opcodes that SGO checks (R223, R226). -/
def siOk (w : Nat) : Bool :=
  let noH := siH w == 0
  let noS := siS w == 0
  let noSel := siSelA w == 0
  match siOp w with
  | 0x00 => bits w 63 6 == 0
  | 0x01 => noS && noSel
  | 0x02 => noH && noS && (siSelA w == 0 || bits w 63 20 == 0)
  | 0x03 => noH && (siSelA w == 1 || noS) && (siSelA w == 0 || bits w 63 20 == 0)
  | 0x04 => noH && noS && noSel
  | 0x08 => bits w 18 12 == 0 && bits w 63 61 == 0
  | 0x09 => bits w 19 12 == 0 && bits w 63 61 == 0
  | 0x0A => bits w 63 61 == 0 && (siPage w || siPos w == 0)
  | 0x10 => siD w ≤ 5 && siSelC w != 3 && bits w 31 11 == 0 && (siSelC w == 0 || siVal w == 0)
  | 0x11 => siD w ≤ 5 && bits w 11 9 == 0 && bits w 31 17 == 0 && siVal w == 0
  | 0x18 => bits w 10 9 == 0 && bits w 31 12 == 0
  | 0x19 => bits w 11 9 == 0 && bits w 31 12 == 0 && siVal w != 0
  | 0x1C => bits w 63 35 == 0 && siTagq w ≤ 16
  | _ => false

/-! ### Engine state -/

def Engine.arg (e : Engine) (r : Nat) : Nat := aget 0 e.ar r
def Engine.setAr (e : Engine) (r v : Nat) : Engine := { e with ar := aput e.ar r (v % 2 ^ 64) }
def Engine.handle (e : Engine) (r : Nat) : Option Nat := afind e.bind r
def Engine.lpc (e : Engine) (l : Nat) : Nat := aget 0 e.lp l

/-- 64-bit address arithmetic (R227). -/
def addA (a : Nat) (z : Int) : Nat := wrapInt 64 ((a : Int) + z)

/-- The row of a line that lands next, with its poison. -/
def Line.nextRow (l : Line) : Option (BitVec 512 × Bool) := l.data[l.landed]?

/-- Lines that hold a tag; a line at stage 4 was answered with an error and never became visible. -/
def Core.openLines (k : Core) : List Line := k.lines.filter fun l => l.stage < 4
def Core.tags (k : Core) (n : Nat) : Nat := (k.openLines.filter fun l => l.eng == n).length

/-- The lowest free tag of the pool (R240). -/
def Core.freeTag (k : Core) : Option Nat := (upto 16).find? fun t => !k.openLines.any fun l => l.tag == t

def Core.lineOf (k : Core) (tag : Nat) : Option Line := k.openLines.find? fun l => l.tag == tag

/-- The open line with this tag replaced. -/
def Core.setLine (k : Core) (tag : Nat) (l : Line) : Core :=
  { k with lines := k.lines.map fun x => if x.tag == tag && x.stage < 4 then l else x }

/-- The tag returns: the line leaves, and a draining engine without tags is IDLE (R225, R246). -/
def Core.dropLine (k : Core) (tag cyc : Nat) : Core :=
  match k.lineOf tag with
  | none => k
  | some l =>
    let k := { k with lines := k.lines.filter fun x => !(x.tag == tag && x.stage < 4) }
    let e := k.engine l.eng
    if e.run == 2 && k.tags l.eng == 0 then k.setEngine l.eng { e with run := 0, nextAt := cyc + 1 } else k

/-! ### Segment holds (R243) -/

/-- Some engine holds the segment. -/
def Core.segHeld (k : Core) (n : Nat) : Bool := (upto 4).any fun e => (k.engine e).holds.contains n

/-- The segment is FILLING, or becomes so in the next cycle. -/
def Core.isFilling (k : Core) (n : Nat) : Bool :=
  k.segState n == segFilling || k.inflight.any fun d => d.eff == .seg n 1

/-- Segments that are FILLING. -/
def Core.fillingSegs (k : Core) : List Nat := (upto 256).filter k.isFilling

/-- The line lands rows in the segment and they are not all visible yet. -/
def Line.fills (l : Line) (n : Nat) : Bool := !l.write && segOf l.row == n

/-- A segment that no engine holds, all of whose lines have landed, becomes LANDED once they are visible; checks see
it from the next cycle on (R162, R243). -/
def Core.settleSeg (k : Core) (cyc n : Nat) : Core :=
  let ls := k.lines.filter fun l => l.fills n
  if k.segHeld n || ls.any (fun l => l.stage != 3) || k.inflight.any (fun d => d.eff == .seg n segLanded) then k
  else
    let t := ls.foldl (fun t l => max t l.visAt) cyc
    { k with inflight := k.inflight ++ [⟨.seg n segLanded, false, t + 1, t + 1, k.is.serial, 0⟩] }

def Core.settleSegs (k : Core) (cyc : Nat) : Core := k.fillingSegs.foldl (fun k n => k.settleSeg cyc n) k

/-- An engine opens a hold on a segment with its first request into it. -/
def Core.holdSeg (k : Core) (n cyc seg : Nat) : Core :=
  let e := k.engine n
  let k := k.setEngine n { e with holds := keyAdd e.holds seg }
  let keep := k.inflight.filter fun d => d.eff != .seg seg segLanded
  if k.isFilling seg then { k with inflight := keep }
  else { k with inflight := keep ++ [⟨.seg seg 1, false, cyc + 1, cyc + 1, k.is.serial, 0⟩] }

/-- An engine releases its holds on the segments that satisfy p. -/
def Core.releaseSegs (k : Core) (n : Nat) (p : Nat → Bool) : Core :=
  let e := k.engine n
  k.setEngine n { e with holds := e.holds.filter fun x => !p x }

/-! ### Start, stop, violations -/

/-- An engine leaves RUNNING (R225): no further request, its wait abandoned, no post; IDLE at once without tags. -/
def Core.stopEngine (k : Core) (n cyc : Nat) : Core :=
  let e := k.engine n
  if e.run != 1 then k
  else
    let e := { e with run := if k.tags n == 0 then 0 else 2, nextAt := cyc, xfer := none, wait := none,
                      fence := false, holds := [], wordRows := [] }
    (k.setEngine n e).settleSegs cyc

/-- The engine stops, and its wait leaves the home. -/
def State.stopEngine (s : State) (c n : Nat) : State :=
  let waiting := ((s.core c).engine n).wait.isSome
  let s := s.modCore c fun k => k.stopEngine n (s.cyc c)
  if waiting then s.withdraw fun d p => d == c && p == 3 + n else s

/-- Every engine of a core stops (R35, R412). -/
def State.stopEngines (s : State) (c : Nat) : State := (upto 4).foldl (fun s n => s.stopEngine c n) s

/-- A violation of Table 10-6 (R250). -/
def State.seViol (s : State) (c n row slot addr : Nat) : State :=
  (s.stopEngine c n).violate c (0xA0 + row) slot addr rSeViol

/-- An error response to a semaphore operation of an engine (Table 11-12, R250). -/
def State.seSemError (s : State) (c n addr : Nat) : State :=
  ((s.stopEngine c n).modCore c fun k => k.bump rSeViol).violate c 0xB3 6 addr rQViol

/-- An error response to a semaphore operation reaches its party (Table 11-12, R278): a stream engine by R250, the bundle in
slot 5, a panel or a stencil in slot 6. Parties as in SemMsg. -/
def State.semError (s : State) (c party addr : Nat) : State :=
  if 3 ≤ party && party ≤ 6 then s.seSemError c (party - 3) addr
  else if 13 ≤ party then s.seSemError c (party - 13) addr
  else s.violate c 0xB3 (if party == 0 || party == 8 then 5 else 6) addr rQViol

/-- SBASE handles that do not resolve (R223). -/
def badHandles (k : Core) (n : Nat) : List Nat :=
  (upto 32).filterMap fun j =>
    let w := k.sInstr n j
    if siOp w == 1 && !k.resolves (siH w) 0 0 false [spHbm, spDdr, spSp, spSync] then some (siH w) else none

/-- SGO (R223): the checks, then the engine runs from the entry instruction four cycles later. -/
def State.sgo (s : State) (c n entry : Nat) (p0 p1 : Word) (step : Nat) : State :=
  let k := s.core c
  if entry > 31 then s.seViol c n 1 5 entry
  else match (upto 32).find? fun j => !siOk (k.sInstr n j) with
    | some j => s.seViol c n 1 5 j
    | none =>
      match badHandles k n with
      | h :: _ => s.seViol c n 2 5 (handleAddr h 0)
      | [] =>
        s.setCore c (k.setEngine n
          { Engine.init with run := 1, pc := entry, ar := (k.engine n).ar, p0 := p0.toNat, p1 := p1.toNat, bucket := 256 * 8192,
                             nextAt := s.cyc c + 4, tstep := step, execs := (k.engine n).execs })

/-- State of engine n in cycle cyc: 0 IDLE, 1 RUNNING, 2 DRAINING, up to the cycle in which its last tag returns
(R225). -/
def Core.engineState (k : Core) (n cyc : Nat) : Nat :=
  let e := k.engine n
  if e.run == 0 && decide (cyc < e.nextAt) then 2 else e.run

/-- An engine that SGO must wait for (R223, R224). -/
def Core.engineBusy (k : Core) (n cyc : Nat) : Bool :=
  k.engineState n cyc != 0 || k.readers.any fun r => r.kind == 4 && r.eng == n

/-! ### Addresses of a transfer (R228 to R233) -/

/-- A scratchpad address of core c of this device. -/
def ownSp (coord c a : Nat) : Bool :=
  gaCoord a == coord && gaSpace a == spSp && gaOff a >>> 20 == c

/-- What may be wrong with an access of n bytes at address a formed by register r: the row of Table 10-6 and the
address logged (R228, R229). use: 0 SYNC, 1 own scratchpad, 2 memory or the scratchpad of another core. -/
def seAccess (k : Core) (coord c : Nat) (e : Engine) (r a n : Nat) (write : Bool) (use : Nat) : Option (Nat × Nat) :=
  match e.handle r with
  | none => some (5, e.pc)
  | some h =>
    let base := k.htAddr h
    let own := ownSp coord c a
    let fit :=
      if use == 0 then gaSpace a == spSync
      else if use == 1 then own
      else gaSpace a == spHbm || gaSpace a == spDdr || (gaSpace a == spSp && !own)
    if base ≤ a && decide (a + n ≤ base + k.htSize h) && !(write && k.htReadOnly h) && fit then none else some (6, a)

/-- One line of a transfer: source, destination, register of the source, the word that it needs (its address). -/
structure LineAddr where
  src : Nat
  dst : Nat
  word : Option Nat
  pos : Option Int
deriving DecidableEq, Repr

/-- Scratchpad row of an own-core address. -/
def rowOf (a : Nat) : Nat := bits a 19 6

/-- The rows that hold the word at an address: two where it is not aligned and lies across their border. -/
def wordRowsOf (a : Nat) : List Nat := if a % 64 ≤ 60 then [rowOf a] else [rowOf a, rowOf (a + 3)]

/-- A row of index or page words that has been read. -/
def Engine.haveRow (e : Engine) (row : Nat) : Option (BitVec 512 × Bool) :=
  (e.wordRows.find? fun x => x.1 == row).map (·.2)

/-- The index or page word at an address, from the rows read last (R233). -/
def Engine.wordAt (e : Engine) (a : Nat) : Option (Nat × Bool) :=
  match e.haveRow (rowOf a), e.haveRow (rowOf (a + 3)) with
  | some x, some y =>
    some (bits (x.1.toNat + y.1.toNat <<< 512) (8 * (a % 64) + 31) (8 * (a % 64)),
      x.2 || (decide (60 < a % 64) && y.2))
  | _, _ => none

/-- Address of the word that line i of a gather needs; the position of a PAGE line (R232, R233). -/
def Engine.wordAddr (e : Engine) (w i : Nat) : Option Nat :=
  if siOp w != 0x0A then none
  else if !siPage w then some (addA (e.arg (siX w)) (4 * i))
  else
    let p := addA (e.arg (siPos w)) (siSstr w * i)
    some (addA (e.arg (siX w)) (4 * (p / 65536)))

/-- The logical position of line i (R233) as a signed number. -/
def Engine.pagePos (e : Engine) (w i : Nat) : Int := sext 64 (addA (e.arg (siPos w)) (siSstr w * i))

/-- Source of line i; none while its word has not been read. -/
def Engine.lineSrc (e : Engine) (w i : Nat) : Option Nat :=
  let a := e.arg (siD w)
  if siOp w != 0x0A then some (addA a (siSstr w * i))
  else match (e.wordAddr w i).bind e.wordAt with
    | none => none
    | some (x, _) =>
      if siPage w then some (addA a (65536 * x + (addA (e.arg (siPos w)) (siSstr w * i)) % 65536))
      else some (addA a (siSstr w * x))

def Engine.lineDst (e : Engine) (w i : Nat) : Nat := addA (e.arg (siDst w)) (siDstr w * i)

/-- Whether an address fits the alignment of its space (R230). -/
def lineAligned (a : Nat) : Bool := a % 512 == 0

/-- The check of a word access; none when the line needs no word (R229, R233). -/
def wordBad (k : Core) (coord c : Nat) (e : Engine) (w i : Nat) : Option (Nat × Nat) :=
  match e.wordAddr w i with
  | none => none
  | some a =>
    if siPage w && (e.pagePos w i < 0 || addA (e.arg (siPos w)) (siSstr w * i) % 512 != 0) then
      some (7, addA (e.arg (siPos w)) (siSstr w * i))
    else seAccess k coord c e (siX w) a 4 false 1

/-- The check of a line whose addresses are known: the first row of Table 10-6 that it breaks (R228 to R230). -/
def lineBad (k : Core) (coord c : Nat) (e : Engine) (w i src : Nat) : Option (Nat × Nat) :=
  let wr := siOp w == 0x09
  let dst := e.lineDst w i
  let a := seAccess k coord c e (siD w) src 512 false (if wr then 1 else 2)
  let b := seAccess k coord c e (siDst w) dst 512 true (if wr then 2 else 1)
  match a, b with
  | some x, some y => if y.1 < x.1 then some y else some x
  | some x, none => some x
  | none, some y => some y
  | none, none =>
    if !lineAligned src then some (7, src) else if !lineAligned dst then some (7, dst) else none

/-! ### Rows that a transfer reads first (R231, R233, R238) -/

/-- The scratchpad row that an engine wants to read next, as a checked read of rank SE_OUT. -/
def Core.seRow (k : Core) (coord c n : Nat) : Option Nat :=
  let e := k.engine n
  match e.run, e.xfer with
  | 1, some x =>
    let w := k.sInstr n e.pc
    if siOp w == 0x09 then
      let src := addA (e.arg (siD w)) (siSstr w * x.i)
      if x.rows.length < 8 && (seAccess k coord c e (siD w) src 512 false 1).isNone && lineAligned src then
        some (rowOf src + x.rows.length)
      else none
    else match e.wordAddr w x.i with
      | some a =>
        if (wordBad k coord c e w x.i).isNone then (wordRowsOf a).find? fun r => (e.haveRow r).isNone else none
      | none => none
  | _, _ => none

/-- The engine takes a row that it has read. -/
def Core.seTake (k : Core) (n row : Nat) (v : BitVec 512) (p : Bool) : Core :=
  let e := k.engine n
  match e.xfer with
  | none => k
  | some x =>
    if siOp (k.sInstr n e.pc) == 0x09 then
      k.setEngine n { e with xfer := some { x with rows := x.rows ++ [(v, p)], heldSince := none } }
    else
      let need := ((e.wordAddr (k.sInstr n e.pc) x.i).map wordRowsOf).getD []
      k.setEngine n { e with wordRows := (e.wordRows.filter fun y => need.contains y.1) ++ [(row, v, p)],
                             xfer := some { x with heldSince := none } }

/-- The engine's read is held on segment state from now on (R263). -/
def Core.seHeld (k : Core) (n now : Nat) : Core :=
  let e := k.engine n
  match e.xfer with
  | some x => if x.heldSince.isSome then k else k.setEngine n { e with xfer := some { x with heldSince := some now } }
  | none => k

end Sys2Proof.Machine
end

