-- ==== Sys2Proof/Machine/RowPorts.lean ====
section
/-!
DEFINITION. What the engines of a core ask of the scratchpad ports in a cycle (R63, R64, R171, R242), as a function of
the state, so that a port's winner does not depend on the order of the commands of a cycle.
-/

namespace Sys2Proof.Machine

/-! ### Landing rows (rank 3) -/

/-- The line whose row engine n lands next: the one that returned first. -/
def Core.landing (k : Core) (n : Nat) : Option Line := k.openLines.find? fun l => l.eng == n && l.stage == 2 && !l.write

/-- The row that an engine (0 to 3), or the landing queue (4), lands next. -/
def Core.landRowOf (k : Core) (who : Nat) : Option Nat :=
  if who < 4 then (k.landing who).bind fun l => l.nextRow.map fun _ => l.row + l.landed
  else k.ext.head?.map fun x => x.row

/-- Landing rows presented in this cycle whose turn has not come: engines in order, then the queue (R63). A refused
core presents none (R66); none comes in a cycle without a beat (R357). -/
def Core.landWants (k : Core) : List (Nat × Nat) :=
  if !k.is.granted || k.is.noBeat then []
  else (upto 5).filterMap fun w => if k.is.landers.contains w then none else (k.landRowOf w).map fun r => (w, r)

/-- The landing row of who wins its port among those that are still presented (R63, R64). -/
def Core.landWins (k : Core) (who row : Nat) : Bool :=
  let ahead := (k.landWants.filter fun x => x.1 < who).map fun x => (true, x.2, 3)
  k.portRow true (bankOf row) (ahead ++ [(true, row, 3)]) == some row

/-! ### Readers (rank 9) -/

/-- Readers in the order of R63: the stencils' first, SPLD last. -/
def Core.readerOrder (k : Core) : List Nat :=
  let spld (i : Nat) : Bool := (k.readers[i]?).any fun r => r.kind == 4
  let all := upto k.readers.length
  (all.filter fun i => !spld i) ++ all.filter spld

/-- The row that a reader reads in this cycle, port permitting: its next one, if LANDED (R163) and not within the FV2
gap (R212). -/
def Core.readerRow (k : Core) (cyc : Nat) (r : Reader) : Option Nat :=
  let row := r.row + r.got.length
  if r.got.length < r.n && k.landed row && !(k.fv2 && k.rowGap row cyc) then some row else none

end Sys2Proof.Machine
end

