-- ==== Sys2Proof/Machine/Arbiter.lean ====
section
/-!
DEFINITION. Arbitration points (R343, R344): their inputs' weights and signed counters, and the grant of one transaction.
Points: 0 to 31 bay egress, 32 to 35 die egress, 40 to 51 HBM controllers, 60 to 67 DDR5 controllers, 80 + 3 * port + channel
the outputs of the fabric ports.
-/

namespace Sys2Proof.Machine

/-- An input that requests, with its weight. -/
abbrev Req := Nat × Nat

def arbKey (point input : Nat) : Nat := 64 * point + input

/-- n cycles of a point: inputs that do not request lose their count, the others gain their weight in each (R343). -/
def arbCycle (cs : AMap Int) (point n : Nat) (req : List Req) : AMap Int :=
  req.foldl (fun m x => aput m (arbKey point x.1) (aget 0 cs (arbKey point x.1) + (n * x.2 : Nat)))
    (cs.filter fun x => x.1 / 64 != point)

/-- The requesting input with the largest count; ties to the lowest. -/
def arbWinner (cs : AMap Int) (point : Nat) (req : List Req) : Option Nat :=
  req.foldl (fun best x => match best with
    | none => some x.1
    | some g =>
      let a := aget 0 cs (arbKey point x.1)
      let b := aget 0 cs (arbKey point g)
      if b < a || (b == a && decide (x.1 < g)) then some x.1 else some g) none

/-- The input that sends next. -/
def State.arbPick (s : State) (point : Nat) (req : List Req) : Option Nat :=
  arbWinner (arbCycle s.arb point 1 req) point req

/-- Input g sends a transaction of n units of 64 bytes, one in each cycle; the inputs of left request behind it. An input
whose last transaction leaves loses its count at once (DESIGN CHOICE, log entry 109). -/
def State.arbSend (s : State) (point g n : Nat) (req left : List Req) : State :=
  let cs := arbCycle s.arb point 1 req
  let total := (req.map (·.2)).sum * n
  let cs := aput cs (arbKey point g) (aget 0 cs (arbKey point g) - (total : Nat))
  { s with arb := arbCycle cs point (n - 1) left }

/-- Units of a transaction with n bytes of data behind its header. -/
def beatsOf (n : Nat) : Nat := (32 + n + 63) / 64

/-! ### Weights (Table 14-5) -/

/-- Devices of the partition. -/
def State.partDevices (s : State) : Nat := 2 ^ popcount s.partMask

/-- Inputs of a bay egress: each core. -/
def bayWeight : Nat := 1

/-- Inputs of a die egress: each bay; and the scrim link whose transit the die carries, that of its neighbour in the row
(R17), which carries one die's traffic. -/
def dieBayWeight : Nat := 56
def dieTransitWeight : Nat := 448

/-- Inputs of an HBM controller: 0 its die's own lath, 1 the link of the neighbour in its row (one die's traffic), 2 that of
the neighbour in its column (two dies', R17), 3 the hub link. -/
def State.hbmWeight (s : State) (input : Nat) : Nat :=
  match input with
  | 0 => 448
  | 1 => 448
  | 2 => 896
  | _ => 1792 * (s.partDevices - 1) + 1

/-- Inputs of a DDR5 controller: 0 to 3 the links of the compute dies, 4 the fabric. -/
def State.ddrWeight (s : State) (input : Nat) : Nat := if input < 4 then 448 else 1792 * (s.partDevices - 1)

/-- Inputs of a port output: 0 the fabric engine, 1 + q input port q, with the weight that the firmware computed. -/
def State.portWeight (s : State) (p input : Nat) : Nat :=
  if input == 0 then 1 else aget 0 s.fab.weights (16 * p + (input - 1))

/-- Whether a route from device a to b comes to device y through port q and leaves it through port p (R333). -/
def passes (fold : Bool) (n y q p : Nat) : Nat → Nat → Nat → Option Nat → Bool
  | 0, _, _, _ => false
  | fuel + 1, a, b, came =>
    match nextPort fold n a b with
    | none => false
    | some o =>
      if a == y then came == some q && o == p
      else passes fold n y q p fuel (if o == 12 then a ^^^ (2 ^ n - 1) else a ^^^ 2 ^ o) b (some o)

/-- The weights of the port outputs, over the coordinates of the partition (R344): source devices some route of which enters
through port q and leaves through port p. -/
def State.fabWeights (s : State) : AMap Nat :=
  let n := s.fab.dims
  let devs := (upto (2 ^ n)).filter s.inPartition
  let ps := (upto nPorts).filter fun p => p < n || p == 12 && decide (2 ≤ n)
  ps.flatMap fun p => ps.filterMap fun q =>
    if p == q then none
    else
      let w := devs.countP fun a => a != s.fab.coord && devs.any fun b => passes s.foldUsable n s.fab.coord q p 14 a b none
      if w == 0 then none else some (16 * p + q, w)

end Sys2Proof.Machine
end

