-- ==== Sys2Proof/Machine/Control.lean ====
section
/-!
DEFINITION. The control slot (R176 to R178, R222 to R225, R255 to R278): checks, interlocks, operations; mailbox
records on their way out.
-/

namespace Sys2Proof.Machine

/-- Fields that a control operation names: bits 0 SA, 1 SB, 2 HND, 3 IDX; width of its immediate; number of values
of IDX. None for a value that no table lists (Tables 08-1, 10-1, 11-3). -/
def ctlUses (cop : Nat) : Option (Nat × Nat × Nat) :=
  if cop == 0x01 then some (11, 23, 4)
  else if cop == 0x02 then some (9, 0, 4)
  else if cop == 0x03 then some (8, 0, 4)
  else if cop == 0x10 || cop == 0x11 then some (9, 2, 8)
  else if cop == 0x14 then some (9, 12, 8)
  else if cop == 0x15 then some (10, 13, 4)
  else if 0x18 ≤ cop && cop ≤ 0x1B then some (15, 23, 8)
  else if cop == 0x30 || cop == 0x32 then some (1, 0, 8)
  else if cop == 0x31 then some (0, 0, 8)
  else none

def ctlRsv (x : CtlSlot) : Bool :=
  if x.cop == 0 then false
  else match ctlUses x.cop with
    | none => true
    | some (u, w, n) =>
      (!bit u 0 && x.sa != 0) || (!bit u 1 && x.sb != 0) || (!bit u 2 && x.hnd != 0) || (!bit u 3 && x.idx != 0) ||
        x.imm ≥ 2 ^ w || x.idx ≥ n

/-- Words of a queue operation (R269). -/
def CtlSlot.words (x : CtlSlot) : Nat := bits x.imm 1 0 + 1

/-- Operand fields of a semaphore operation (Table 11-4). -/
def CtlSlot.loc (x : CtlSlot) : Bool := bit x.imm 22
def CtlSlot.snum (x : CtlSlot) : Nat := bits x.imm 21 15
def CtlSlot.fence (x : CtlSlot) : Bool := bit x.idx 0
def CtlSlot.isWait (x : CtlSlot) : Bool := x.cop == 0x18 || x.cop == 0x19
def CtlSlot.isSem (x : CtlSlot) : Bool := 0x18 ≤ x.cop && x.cop ≤ 0x1B

/-- Count or amount, unsigned (R257). -/
def semCount (k : Core) (x : CtlSlot) : Nat := (bits x.imm 14 0 + (k.s x.sb).toNat) % 2 ^ 32

/-- Offset of the semaphore within its handle. -/
def semOff (k : Core) (x : CtlSlot) : Nat := 4 * (k.s x.sa).toNat

/-- Global address of the semaphore (R257). -/
def semAddr (k : Core) (coord c : Nat) (x : CtlSlot) : Nat :=
  if x.loc then gaMake coord spSync (ownSem c x.snum) else (k.htAddr x.hnd + semOff k x) % 2 ^ 64

/-- Record of MB.SEND: body units, length, pad (R275). -/
def mbUnits (x : CtlSlot) : Nat := bits x.imm 3 0
def mbNeed (x : CtlSlot) : Nat := 16 + 16 * mbUnits x
def mbPad (ring woff need : Nat) : Nat := if woff + need > ring then ring - woff else 0
def mbBodyRows (n : Nat) : Nat := (16 * n + 63) / 64

/-- Bytes that MB.FREE returns (R277). -/
def freeAmount (k : Core) (x : CtlSlot) : Nat := (x.imm + (k.s x.sb).toNat) % 2 ^ 32

/-- Row n of Table 11-12 (3 is the response of a home, 4 the wait limit). -/
def qViol (n addr : Nat) : Viol := ⟨5, 0xB0 + n, addr, rQViol⟩

/-- Queue and mailbox operations: rows 5 to 7 of Table 11-12. -/
def queueViols (k : Core) (coord : Nat) (x : CtlSlot) : List Viol :=
  let rt := k.rtCfg x.idx
  let rw := routeWord x.idx rt coord
  let q := k.queue x.idx
  let mb := k.mbxCfg x.idx
  let wide := x.sa + x.words > 32
  let severed := (k.route x.idx).st == 2
  if x.cop == 0x10 then
    vrow (!rtValid rt || rtMailbox rt || wide) (qViol 5 rw) ++ vrow severed (qViol 6 rw)
  else if x.cop == 0x11 then vrow (q.src.isNone || wide) (qViol 5 (queueWord x.idx q.src coord))
  else if x.cop == 0x14 then
    vrow (!rtValid rt || !rtMailbox rt) (qViol 5 rw) ++ vrow severed (qViol 6 rw) ++
      vrow (bits (k.s x.sa).toNat 13 0 + mbBodyRows (mbUnits x) > nRows) (qViol 7 rw)
  else if x.cop == 0x15 then
    vrow (!mbValid mb) (qViol 5 (mbxWord x.idx mb)) ++
      vrow (freeAmount k x % 16 != 0 || freeAmount k x > (k.mbx x.idx).landed) (qViol 7 (mbxWord x.idx mb))
  else []

/-- Semaphore operations: rows 1 and 2 of Table 11-12. -/
def semViols (k : Core) (coord c : Nat) (x : CtlSlot) (i : Nat) : List Viol :=
  if !x.isSem then []
  else
    vrow ((x.loc && (x.hnd != 0 || x.sa != 0)) || (!x.loc && x.snum != 0) || (x.isWait && x.fence) ||
      bits x.idx 2 1 != 0) (qViol 1 i) ++
    vrow (!x.loc && (!k.resolves x.hnd (semOff k x) 4 (x.cop != 0x18) [spSync] || semAddr k coord c x % 4 != 0))
      (qViol 2 (handleAddr x.hnd (semOff k x)))

/-- Stream and stencil operations found at issue: Tables 10-6 and 08-8. -/
def startViols (k : Core) (cyc : Nat) (b : Bundle) (i : Nat) : List Viol :=
  let x := b.ctl
  let row := bits (k.s x.sa).toNat 13 0
  vrow (x.cop == 0x02 && (k.engineState x.idx cyc != 0 || row % 4 != 0)) ⟨5, 0xA3, i, rSeViol⟩ ++
    vrow ((x.cop == 0x30 || x.cop == 0x32) &&
      (row % 8 != 0 || k.readers.any fun r => r.kind == 0 && r.got.length < r.n)) ⟨5, 0x81, i, rStnViol⟩ ++
    vrow ((x.cop == 0x31 || x.cop == 0x32) && (b.run != 0 || b.mark || isBranch b.scl.op || k.is.delay))
      ⟨5, 0x82, i, rStnViol⟩

def ctlViols (k : Core) (coord c cyc : Nat) (b : Bundle) (i : Nat) : List Viol :=
  slotViols (ctlRsv b.ctl) 5 i
    (startViols k cyc b i ++ semViols k coord c b.ctl i ++ queueViols k coord b.ctl)

/-- S registers that a control slot reads or writes (R62). -/
def ctlRegs (x : CtlSlot) : List Nat :=
  if x.cop == 0x10 || x.cop == 0x11 then (upto x.words).map fun j => x.sa + j
  else if x.cop == 0 || x.cop == 0x31 then []
  else [x.sa, x.sb]

/-- Interlock of the control slot other than its semaphore wait (R61, R223, R270, R275): the stall cause. A violation
of the operation waits for the interlock (R283); a route that is not VALID, of the other kind or SEVERED, a queue
without source and an engine that does not exist hold nothing. -/
def ctlCause (k : Core) (cyc : Nat) (b : Bundle) : Option Nat :=
  let x := b.ctl
  let r := k.route x.idx
  let q := k.queue x.idx
  let rt := k.rtCfg x.idx
  let need := mbNeed x
  let open_ (mb : Bool) : Bool := rtValid rt && rtMailbox rt == mb && r.st != 2
  if x.cop == 0x01 && decide (x.idx < 4) && k.engineBusy x.idx cyc then some 7
  else if (x.cop == 0x10 && open_ false && r.credit == 0) ||
      (x.cop == 0x11 && q.src.isSome && (q.msgs.isEmpty || q.closed)) ||
      (x.cop == 0x14 && open_ true && decide (r.credit < mbPad (rtRing rt) r.woff need + need)) then some 4
  else none

/-! ### Mailbox records on their way out (R274 to R276) -/

/-- Record header (Table 11-11). -/
def mbHead (size kind utag seq core coord : Nat) : BitVec 128 :=
  BitVec.ofNat 128 (size % 32 + kind <<< 8 + (utag % 256) <<< 16 + (seq % 2 ^ 32) <<< 32 + core <<< 64 + coord <<< 75)

/-- A record's bytes with the poison of the source row of each. -/
def MbOut.bytes (m : MbOut) : List (Byte × Bool) :=
  ((toBytes 16 m.head.toNat).map fun b => (b, false)) ++
    (((m.got.flatMap fun r => (toBytes 64 r.1.toNat).map fun b => (b, r.2))).take (16 * m.n))

/-- The rows that a record at ring offset off covers, numbered from the ring's first row. -/
def recordRows (off : Nat) (bs : List (Byte × Bool)) (fin : ExtEnd) : List ExtRow :=
  let lead : List (Option (Byte × Bool)) := List.replicate (off % 64) none ++ bs.map some
  let n := (lead.length + 63) / 64
  (upto n).map fun j =>
    let part := (lead.drop (64 * j)).take 64
    { row := off / 64 + j,
      bytes := part.map (fun x => x.map (·.1)) ++ List.replicate (64 - part.length) none,
      poison := part.any fun x => match x with | some y => y.2 | none => false,
      fin := if j + 1 == n then fin else .none, came := 0, sender := 0 }

/-- The poisoned 16-byte units of a record as a mask: the extra word of MBX_REC (log entry 15). -/
def unitMask (bs : List (Byte × Bool)) : Nat :=
  join 1 ((upto ((bs.length + 15) / 16)).map fun j => b2n (((bs.drop (16 * j)).take 16).any (·.2)))

/-- The records whose body has been read leave, in order. -/
def State.sendRecords (s : State) (c : Nat) : Nat → State
  | 0 => s
  | fuel + 1 =>
    match (s.core c).mbOut with
    | [] => s
    | m :: rest =>
      if m.got.length < mbBodyRows m.n then s
      else
        let cfg := (s.core c).rtCfg m.route
        let mb := rtQueue cfg
        let s := s.modCore c fun k => { k with mbOut := rest }
        let s :=
          if rtCoord cfg == s.fab.coord then
            s.onLath (.record c (rtCore cfg) mb
              (recordRows m.woff m.bytes (.record mb (16 + 16 * m.n) (some (c, m.serial)) none)) m.serial)
          else
            let r := s.fabRequest 0x04 c 8 3 m.serial (rtCoord cfg) (mbxAddr (rtCoord cfg) (rtCore cfg) mb m.woff) 0
              (m.bytes.map (·.1)) (m.bytes.any (·.2)) [unitMask m.bytes]
            if r.2 then r.1 else r.1.violate c 0xB3 6 (mbxAddr (rtCoord cfg) (rtCore cfg) mb m.woff) rQViol
        s.sendRecords c fuel

/-! ### Operations -/

/-- Q.SEND (R269, R270). -/
def State.qSend (s : State) (c : Nat) (k0 : Core) (x : CtlSlot) : State :=
  let cfg := k0.rtCfg x.idx
  let n := (s.core c).is.serial
  let s := s.modCore c fun k =>
    let r := k.route x.idx
    let k := k.setRoute x.idx { r with credit := r.credit - 1 }
    ({ k with is := { k.is with serial := n + 1 } } : Core).bump (rRtSent x.idx)
  s.onLath (.msg c (rtCore cfg) (rtQueue cfg) ((upto x.words).map fun j => k0.s (x.sa + j)) n)

/-- Q.RECV (R269, R270): the head message leaves its slot; words beyond the message are 0. -/
def State.qRecv (s : State) (c : Nat) (x : CtlSlot) : State :=
  let q := (s.core c).queue x.idx
  match q.msgs with
  | [] => s
  | w :: rest =>
    let s := s.modCore c fun k =>
      let k := (k.setQueue x.idx { q with msgs := rest, head := (q.head + 1) % 32, heldSince := none }).bump
        (rQRecv x.idx)
      (upto x.words).foldl (fun k j => k.later (.sreg (x.sa + j) (w.getD j 0#32)) true k.is.clk 2 2) k
    match q.src with
    | some (d, r) => s.onLath (.credit d r)
    | none => s

/-- MB.SEND (R275); the body of a PAD record is free (log entry 16). -/
def State.mbSend (s : State) (c : Nat) (k0 : Core) (x : CtlSlot) : State :=
  let cfg := k0.rtCfg x.idx
  let r := k0.route x.idx
  let n := mbUnits x
  let need := mbNeed x
  let pad := mbPad (rtRing cfg) r.woff need
  let utag := bits x.imm 11 4
  let sn := (s.core c).is.serial
  let rows := mbBodyRows (pad / 16 - 1)
  let junk : List (BitVec 512 × Bool) := (upto rows).map fun j => (Config.freeBits 512 (s.free + j), false)
  let padRec : List MbOut :=
    if pad == 0 then [] else [⟨x.idx, 0, pad / 16 - 1, mbHead (pad / 16) 2 utag r.seq c s.fab.coord, r.woff, junk, sn, none⟩]
  let seq := if pad == 0 then r.seq else r.seq + 1
  let woff := if pad == 0 then r.woff else 0
  let data : MbOut :=
    ⟨x.idx, bits (k0.s x.sa).toNat 13 0, n, mbHead (n + 1) 1 utag seq c s.fab.coord, woff, [], sn, none⟩
  let s := { s with free := if pad == 0 then s.free else s.free + rows }
  let s := s.modCore c fun k =>
    let k := k.setRoute x.idx
      { r with credit := r.credit - (pad + need), woff := (woff + need) % rtRing cfg, seq := (seq + 1) % 2 ^ 32 }
    let k : Core := { k with mbOut := k.mbOut ++ padRec ++ [data], is := { k.is with serial := sn + 1 } }
    let k := k.bump (rRtSent x.idx)
    if pad == 0 then k else k.bump (rRtPad x.idx)
  s.sendRecords c 2

/-- MB.FREE (R277). -/
def State.mbFree (s : State) (c : Nat) (k0 : Core) (x : CtlSlot) : State :=
  let cfg := k0.mbxCfg x.idx
  let n := freeAmount k0 x
  let s := s.modCore c fun k =>
    let m := k.mbx x.idx
    let ring := 64 * max 1 (mbRows cfg)
    k.setMbx x.idx { m with roff := (m.roff + n) % ring, landed := m.landed - n,
                            heads := m.heads.filter fun h => n ≤ (h + ring - m.roff) % ring }
  if mbCoord cfg == s.fab.coord then s.onLath (.mbCredit (mbCore cfg) (mbRoute cfg) n)
  else (s.fabSend 0x05 (mbCoord cfg) 0 (routeAddr (mbCoord cfg) (mbCore cfg) (mbRoute cfg)) [] false [n]).1

/-- SEM.ADD, SEM.SUB (R255, R262): the update enters the sync port, which sends what may leave. -/
def State.semUpdate (s : State) (c : Nat) (k0 : Core) (x : CtlSlot) : State :=
  let n := (s.core c).is.serial
  let d : Int := semCount k0 x
  let s := s.modCore c fun k =>
    { k with sync := k.sync ++ [⟨0, semAddr k0 s.fab.coord c x, if x.cop == 0x1B then -d else d, x.fence, n⟩],
             is := { k.is with serial := n + 1 } }
  s.drainSync c (s.core c).sync.length

/-- SPLD and STLD: the rows are read from the issue cycle on (R177, R224). -/
def Core.startReader (k : Core) (kind eng row n : Nat) (go : Bool) : Core :=
  { k with readers := k.readers ++ [⟨kind, eng, row, n, go, [], 0, none⟩] }

/-- The last STLD under way loads the descriptor that STGO starts. -/
def markGo : List Reader → List Reader
  | [] => []
  | r :: rs => (if r.kind == 0 && !(rs.any fun x => x.kind == 0) then { r with go := true } else r) :: markGo rs

/-- STGO: the sequencer takes issue; its first bundle comes four cycles later, or four after the registers hold the
descriptor (R178). -/
def Core.stgo (k : Core) (cyc : Nat) : Core :=
  let loading := k.readers.any fun r => r.kind == 0
  let stn := { k.stn with
    active := true, phase := if loading then 1 else 2, frontAt := max cyc k.stn.regsAt + 4, serial0 := k.is.serial }
  { k with readers := markGo k.readers, stn }

/-- The control slot of an issuing bundle. -/
def State.runCtl (s : State) (c : Nat) (k0 : Core) (x : CtlSlot) : State :=
  let row := bits (k0.s x.sa).toNat 13 0
  let cyc := s.cyc c
  match x.cop with
  | 0x01 => s.sgo c x.idx x.imm (k0.s x.sa) (k0.s x.sb) k0.pnl.step
  | 0x02 => s.modCore c fun k => k.startReader 4 x.idx row 4 false
  | 0x03 => s.stopEngine c x.idx
  | 0x10 => s.qSend c k0 x
  | 0x11 => s.qRecv c x
  | 0x14 => s.mbSend c k0 x
  | 0x15 => s.mbFree c k0 x
  | 0x18 | 0x19 => s.modCore c fun k => k.setWait 0 none
  | 0x1A | 0x1B => s.semUpdate c k0 x
  | 0x30 => s.modCore c fun k => k.startReader 0 0 row 8 false
  | 0x31 => s.modCore c fun k => k.stgo cyc
  | 0x32 => s.modCore c fun k => (k.startReader 0 0 row 8 true).stgo cyc
  | _ => s

end Sys2Proof.Machine
end

