-- ==== Sys2Proof/Machine/Panels.lean ====
section
/-!
DEFINITION. Panels (R25 to R41): descriptors, the walk of the table, the end of a panel, its start, its post.
-/

namespace Sys2Proof.Machine

/-- Descriptor i of the panel table as a 256-bit value (R25). -/
def Core.pdesc (k : Core) (i : Nat) : Nat := join 32 ((upto 8).map fun j => k.reg (0x2000 + 32 * i + 4 * j))

def pdKind (d : Nat) : Nat := bits d 2 0
def pdStep (d : Nat) : Bool := bit d 3
def pdIdle (d : Nat) : Bool := bit d 4
def pdWait (d : Nat) : Bool := bit d 5
def pdPost (d : Nat) : Bool := bit d 6
def pdWaitH (d : Nat) : Nat := bits d 13 8
def pdPostH (d : Nat) : Nat := bits d 21 16
def pdWrapTo (d : Nat) : Nat := bits d 31 24
def pdStart (d : Nat) : Nat := bits d 79 32
def pdBudget (d : Nat) : Nat := bits d 127 96
def pdFloat (d : Nat) : Nat := bits d 159 128
def pdTokens (d : Nat) : Nat := bits d 175 160
def pdCount (d : Nat) : Nat := bits d 191 176

/-- SCR_JOB_EPOCH (R23). -/
def State.jobEpoch (s : State) : Nat := s.dreg64 0x1008

/-- Planned start of a timed panel, modulo 2^64 (DESIGN CHOICE, log entry 104). -/
def State.planned (s : State) (p : Panel) (d : Nat) : Nat := (s.jobEpoch + p.base + pdStart d) % 2 ^ 64

/-- Descriptor at index i, END past 255 (R28). -/
def Core.pdescOr (k : Core) (i : Nat) : Nat := if i < 256 then k.pdesc i else 0

/-- The walk from index i on: past the WRAPs that stand there (Walking the table). -/
def walk (k : Core) : Nat → Nat → Nat → Nat → Nat × Nat × Nat
  | 0, _, base, wraps => (256, base, wraps)
  | fuel + 1, i, base, wraps =>
    let d := k.pdescOr i
    if pdKind d != 3 then (i, base, wraps)
    else
      let w := satAdd 32 wraps 1
      if pdBudget d == 0 || decide (w < pdBudget d) then
        walk k fuel (pdWrapTo d) ((base + pdStart d) % 2 ^ 64) w
      else walk k fuel (i + 1) base 0

/-- A violation that no counter counts (Table 02-10). -/
def State.violateUncounted (s : State) (c code slot index addr : Nat) : State :=
  let k := ((s.core c).logFault (s.cyc c) code slot index addr).stop
  ((s.setCore c k).emit evViolation (some c) (some clsViolation) ([k.reg rFaultInfo] ++ lohi addr ++ [0])).raiseFault
    4 c addr

/-- A start or end handle resolves to a semaphore (R33). -/
def Core.panelHandle (k : Core) (h : Nat) (write : Bool) : Bool :=
  k.resolves h 0 4 write [spSync] && k.htAddr h % 4 == 0

/-- Float consumed by the timed panel that ended last, once a timed descriptor stands at the core's index and gives its
slot (R41). A timed panel that no timed one follows has no slot and is not counted (DESIGN CHOICE, log entry 106). -/
def State.floatUsed (s : State) (c : Nat) : State :=
  let k := s.core c
  let p := k.pnl
  let d := k.pdescOr p.index
  match p.lastEnd with
  | some t =>
    if pdKind d == 1 then
      let used := t + p.lastFloat - s.planned p d
      s.setCore c ({ k with pnl := { p with lastEnd := none } }.setReg rPnlFloatPeak
        (max (k.reg rPnlFloatPeak) (min used (2 ^ 32 - 1))))
    else s
  | none => s

/-- The core enters the descriptor at its index: its wait (R29). -/
def State.enterPanel (s : State) (c : Nat) : State :=
  let s := s.modCore c fun k => { k with pnl := { k.pnl with phase := 1, wait := none, semAt := 0 } }
  let k := s.core c
  let d := k.pdescOr k.pnl.index
  if !pdWait d then s
  else if !k.panelHandle (pdWaitH d) false then s.violateUncounted c 0x12 6 k.bundleIndex (handleAddr (pdWaitH d) 0)
  else
    let r := s.beginWait c 1 (k.htAddr (pdWaitH d)) (pdCount d) false
    if r.2 then r.1 else r.1.violate c 0xB3 6 (k.htAddr (pdWaitH d)) rQViol

/-- The core acknowledges a pending step of its bay (R364). -/
def State.ackStep (s : State) (c : Nat) : State :=
  let y := s.bay (bayOf c)
  if y.pstep.isNone then s
  else s.setBay (bayOf c) { y with unacked := y.unacked.filter fun n => n != c }

/-- A sanding pass on the core is aborted and its registers are restored (R381). -/
def State.abortPass (s : State) (c : Nat) : State :=
  if (s.core c).sand.isNone then s else (s.modCore c fun k => { k with sand := none }).bumpD 0x41000C

/-- The wait for descriptor d' after the panel of descriptor d is a window for sanding (R34). -/
def State.offers (s : State) (p p' : Panel) (d d' : Nat) : Bool :=
  pdKind d == 1 && pdIdle d && pdKind d' == 1 && decide (s.planned p d + 50000 ≤ s.planned p' d')

/-- What follows the end of a panel of core c (R30, R35): engines of a halted core stop; inbound queues and mailboxes close at
the end of the program; otherwise the next descriptor is entered, unless the core is halted. -/
def State.afterPanel (s : State) (c : Nat) (halted ended : Bool) : State :=
  let s := if halted then s.stopEngines c else s
  if ended then s.closeInbound c
  else if halted then s.floatUsed c
  else (s.floatUsed c).enterPanel c

/-- The panel ends with the marked bundle that just issued (R30 to R33, R35). Where POST_H fails the panel does not end,
and the marked bundle's index is logged; its slots have run (DESIGN CHOICE, log entry 105). -/
def State.panelEnd (s : State) (c : Nat) : State :=
  let k := s.core c
  let p := k.pnl
  let d := k.pdesc p.index
  if pdPost d && !k.panelHandle (pdPostH d) true then s.violateUncounted c 0x12 6 k.is.pcIndex (handleAddr (pdPostH d) 0)
  else
    let w := walk k 600 (p.index + 1) p.base p.wraps
    let ended := pdKind (k.pdescOr w.1) == 0
    let p' : Panel :=
      { p with index := min w.1 255, base := w.2.1, wraps := w.2.2,
               step := if pdStep d then satAdd 48 p.step 1 else p.step,
               prevEnd := s.scr.now, lastEnd := if pdKind d == 1 then some s.scr.now else p.lastEnd,
               posts := if pdPost d then p.posts ++ [⟨k.htAddr (pdPostH d), k.is.serial⟩] else p.posts,
               phase := if ended then 3 else if k.halted then 4 else 1 }
    let p' := { p' with window := s.offers p p' d (k.pdescOr w.1) }
    let k : Core := { k with pnl := p', is := { k.is with serial := k.is.serial + 1 } }
    let slow := pdBudget d != 0 && decide (s.cyc c + 1 > p.startCyc + pdBudget d)
    ((s.setCore c (if slow then k.bump rPnlCycOver else k)).ackStep c).afterPanel c k.halted ended

/-- Whether the start condition of the panel at the core's index holds (R29, R30). -/
def State.panelReady (s : State) (c : Nat) : Bool :=
  let k := s.core c
  let p := k.pnl
  let d := k.pdesc p.index
  p.phase == 1 && !k.is.stopped && decide (k.is.eligible ≤ k.is.clk) && (!pdWait d || released p.wait) &&
    (pdKind d != 1 || decide (s.planned p d ≤ s.scr.now))

/-- The crossing of bay b begins to re-centre, or goes on with it (R359). -/
def State.recentre (s : State) (b : Nat) : State :=
  let x := aget .init s.xng b
  if !x.plumbed || (x.ofsIn == 8 && x.ofsOut == 8) then s else { s with xng := aput s.xng b { x with recentre := true } }

/-- A timed panel of bay b starts: the crossing re-centres, and a step that is due in the same cycle does so again (R359,
R365). -/
def State.timedStart (s : State) (b : Nat) : State :=
  (s.setBay b { s.bay b with timedAt := some (s.bay b).cyc }).recentre b

/-- CAUSE of a late panel (Table 02-6). -/
def lateCause (self wait : Bool) : Nat := if self && wait then 3 else if wait then 2 else 1

/-- A timed panel that starts late is counted and, from the threshold on, recorded (R38, R40). -/
def State.countLate (s : State) (c : Nat) (p : Panel) (d : Nat) : State :=
  let plan := s.planned p d
  let sem := if pdWait d then p.semAt else 0
  let late := max p.prevEnd sem - plan
  if late == 0 then s
  else
    let t := min late (2 ^ 32 - 1)
    let s := s.modCore c fun k =>
      (k.bump rPnlLateCnt).setReg rPnlLateMax (max (k.reg rPnlLateMax) t)
    if t < s.dreg 0x1018 then s
    else
      s.emit evPanelLate (some c) none
        [c + p.index <<< 11 + lateCause (decide (plan < p.prevEnd)) (decide (plan < sem)) <<< 19, t,
          if p.lastPlan.isSome then p.lastFloat else 0]

/-- Sanding leaves the core: a pass under way is aborted, a window without a pass counts (R381). -/
def State.closeWindow (s : State) (c : Nat) : State :=
  let s := s.abortPass c
  if (s.core c).pnl.window then (s.modCore c fun k => { k with pnl := { k.pnl with window := false } }).bumpD 0x410010
  else s

/-- The panel starts (R29, R38 to R40, R359). -/
def State.panelStart (s : State) (c : Nat) : State :=
  let s := s.closeWindow c
  let p := (s.core c).pnl
  let d := (s.core c).pdesc p.index
  let timed := pdKind d == 1
  let s := if timed then s.countLate c p d else s
  let late := decide (s.planned p d < max p.prevEnd (if pdWait d then p.semAt else 0))
  let cyc := s.cyc c
  let now := s.scr.now
  let plan := s.planned p d
  let s := s.modCore c fun k =>
    let q := { k.pnl with phase := 2, wait := none, startCyc := cyc, tokOver := false, tokLim := some (pdTokens d) }
    { k with pnl :=
        if timed then { q with lastStart := now, late, lastFloat := pdFloat d, lastPlan := some plan } else q }
  if timed then s.timedStart (bayOf c) else s

/-- Every effect that the post must follow is visible (R31). A line that was answered with an error never is complete
(R246), so a post behind it never leaves. -/
def State.postReady (s : State) (c : Nat) (x : Post) : Bool :=
  let k := s.core c
  !k.unwritten x.serial && !(k.lm.any fun o => o.serial < x.serial) && !(k.sync.any fun o => o.serial < x.serial) &&
    !(k.lines.any fun l => l.write && match l.serial with | some n => decide (n < x.serial) | none => false) &&
    !s.unapplied c x.serial

/-- The end post of the oldest ended panel that still owes one (R31). -/
def State.panelPost (s : State) (c : Nat) : State :=
  match (s.core c).pnl.posts with
  | [] => s
  | x :: rest =>
    if !s.postReady c x then s
    else
      let s := s.modCore c fun k => { k with pnl := { k.pnl with posts := rest } }
      let r := s.postSend c 1 x.addr 1
      if r.2 then r.1 else r.1.semError c 11 x.addr

end Sys2Proof.Machine
end

