-- ==== Sys2Proof/Machine/Weights.lean ====
section
/-!
DEFINITION. The Weight Directory as a stream engine reads it (R303 to R306).
-/

namespace Sys2Proof.Machine

/-- Offset of WD_ENTRY e in the device window. -/
def rWd (e : Nat) : Nat := 0x20000 + 32 * e

/-- WD_ENTRY e as a 256-bit value (Table 13-8). -/
def State.wd (s : State) (e : Nat) : Nat := join 32 ((upto 8).map fun j => s.dreg (rWd e + 4 * j))

def wdA (w : Nat) : Nat := bits w 63 0
def wdB (w : Nat) : Nat := bits w 127 64
def wdSize (w : Nat) : Nat := bits w 167 128
def wdSel (w : Nat) : Bool := bit w 168
def wdPend (w : Nat) : Bool := bit w 169
def wdKind (w : Nat) : Nat := bits w 171 170
def wdFlipStep (w : Nat) : Nat := bits w 223 176
def wdFlips (w : Nat) : Nat := bits w 255 224

/-- WD_ENTRY e replaced. -/
def State.setWd (s : State) (e w : Nat) : State :=
  (upto 8).foldl (fun s j => s.setDreg (rWd e + 4 * j) (w >>> (32 * j))) s

/-- The copy that an engine with translation step t reads (R305). -/
def wdCopy (w t : Nat) : Nat :=
  let flipped := wdPend w && decide (wdFlipStep w ≤ t)
  if wdSel w != flipped then wdB w else wdA w

/-- An HBM offset is an alias (R304). -/
def isAlias (a : Nat) : Bool := gaSpace a == spHbm && bit (gaOff a) 47

/-- A line address after alias translation; none where the engine receives an error response (R304). -/
def State.translate (s : State) (a : Nat) (write : Bool) (step : Nat) : Option Nat :=
  if !isAlias a then some a
  else
    let w := s.wd (bits a 46 39)
    let z := bits a 38 0
    if wdKind w == 0 || wdSize w ≤ z || write || gaCoord a != s.fab.coord then none
    else some ((wdCopy w step + z) % 2 ^ 64)

/-- WD_STEP_MIN (R306): over the cores that wait or run, and the engines that are not IDLE; none when both are
empty. -/
def State.stepMin (s : State) : Option Nat :=
  let steps (c : Nat) (k : Core) : List Nat :=
    (if k.pnl.phase == 1 || k.pnl.phase == 2 then [k.pnl.step] else []) ++
      (k.se.filterMap fun e => if k.engineState e.1 (s.cyc c) != 0 then some e.2.tstep else none)
  let all := (s.cores.flatMap fun x => steps x.1 x.2) ++ (if s.cores.length < nCores then steps 0 s.dflt else [])
  all.foldl (fun m x => match m with
    | none => some x
    | some y => some (min x y)) none

end Sys2Proof.Machine
end

