-- ==== Sys2Proof/Machine/Patches.lean ====
section
/-!
DEFINITION. Findings (R373 to R377): records of the module flash, the mapping of logical cores, page nominations.
-/

namespace Sys2Proof.Machine

/-! ### Records (Table 16-6) -/

/-- A field of a record. -/
def prField (r : PatchRec) (hi lo : Nat) : Nat := bits r.w.toNat hi lo

def prKind (r : PatchRec) : Nat := prField r 7 0
def prSerial (r : PatchRec) : Nat := prField r 63 32
def prSource (r : PatchRec) : Nat := prField r 71 64
/-- DIE and BAY: the bay of the device. -/
def prBay (r : PatchRec) : Nat := prField r 132 128
def prCore (r : PatchRec) : Nat := prField r 138 133
def prBank (r : PatchRec) : Nat := prField r 142 139
def prBrow (r : PatchRec) : Nat := prField r 152 143
def prStack (r : PatchRec) : Nat := prField r 131 128
/-- The location, bits 161 to 128. -/
def prPlace (r : PatchRec) : Nat := prField r 161 128

/-- Digest of what the signature covers. -/
def prDigest (r : PatchRec) : BitVec 256 := Config.digest (toBytes 64 (prField r 511 0))

/-- The signature verifies under the key of the record's source (Table 17-2). -/
def prSigned (r : PatchRec) : Bool :=
  let sig := BitVec.ofNat 512 (prField r 1023 512)
  !r.torn &&
    if prSource r == 5 then Config.sigValid 2 (prDigest r) sig
    else 1 ≤ prSource r && prSource r ≤ 4 && (sig == Config.signature 1 (prDigest r) || Config.sigValid 1 (prDigest r) sig)

/-- The record that the firmware writes, signed by IDK: its bytes below the signature, then the signature. -/
def makeRec (kind source place serial : Nat) : PatchRec :=
  let body := kind + 1 <<< 8 + (serial % 2 ^ 32) <<< 32 + source <<< 64 + place <<< 128 + devid.toNat <<< 256
  ⟨BitVec.ofNat 1024 (body + (Config.signature 1 (Config.digest (toBytes 64 body))).toNat <<< 512), false⟩

/-- The location of a core, and of a scratchpad row of its bank. -/
def corePlace (bay core : Nat) : Nat := bay % 32 + (core % 64) <<< 5
def rowPlace (bay core bank row : Nat) : Nat := corePlace bay core + (bank % 16) <<< 11 + (row % 1024) <<< 15

/-- The firmware writes a record for a new finding (R376); act is true when it concerns a resource that serves a
logical core or lies in HBM. -/
def State.newRecord (s : State) (kind source place : Nat) (act : Bool) : State :=
  let st := s.dreg 0x400000
  if s.pat.flash.length ≥ 8192 then (s.setDreg 0x400000 (setBits st 4 4 1)).emit evPatchFull none none []
  else
    let n := s.dreg 0x400010
    let s := { s with pat := { s.pat with
      flash := s.pat.flash ++ [makeRec kind source place n], fresh := s.pat.fresh ++ [(n, s.scr.ns)] } }
    let st := setBits st 2 2 1
    (s.setDreg 0x400000 (if act then setBits st 3 3 1 else st)).setDreg 0x400010 (n + 1)

/-- A CORE_OUT record for a physical core of a bay; an SP_ROW record; an HBM_PAGE record. -/
def State.coreOut (s : State) (bay core source : Nat) (act : Bool) : State := s.newRecord 1 source (corePlace bay core) act
def State.rowOut (s : State) (x : Nat × Nat × Nat × Nat) (source : Nat) (act : Bool) : State :=
  s.newRecord 2 source (rowPlace x.1 x.2.1 x.2.2.1 x.2.2.2) act
def State.pageOut (s : State) (place source : Nat) : State := s.newRecord 3 source (place % 2 ^ 34) true

/-- The physical cores of a bay that are not out, lowest first (R377). -/
def goodCores (out : Nat) : List Nat := (upto 64).filter fun n => !bit out n

/-- The physical cores that serve logical cores of a bay: the 56 lowest good ones (R377). -/
def servingCores (out : Nat) : List Nat := (goodCores out).take 56

/-- Physical core n of bay b serves a logical core at present. -/
def State.serves (s : State) (b n : Nat) : Bool := (aget (servingCores 0) s.pat.map b).contains n

/-- Physical core that serves logical core c. -/
def State.physical (s : State) (c : Nat) : Nat := (aget (servingCores 0) s.pat.map (c / 56)).getD (c % 56) 0

/-- A page of HBM is nominated for retirement (R298, R376). -/
def State.nominate (s : State) (page : Nat) : State :=
  ((s.bumpD 0x10018).emit evHbmRetire none none (lohi page)).pageOut page 4

end Sys2Proof.Machine
end

