-- ==== Sys2Proof/Machine/Tiers.lean ====
section
/-!
DEFINITION. The memory tiers (R289 to R302): where an address lies, refresh windows, reads and writes of lines with
ECC and poison, merge entries.
-/

namespace Sys2Proof.Machine

/-! ### Where an address lies -/

/-- Capacity of the HBM space; bytes of a band (R293). -/
def hbmSize : Nat := 0x6C00000000
def bandSize : Nat := 0x300000000

/-- Stack and stack line of line l of a band in spread mode (R294). -/
def spreadPlace (l : Nat) : Nat × Nat :=
  let r := l % 768
  let q := l / 768
  let f := q % 64 ^^^ (q / 64) % 64 ^^^ (q / 4096) % 8
  ((r / 64 + q % 12) % 12, 64 * q + (r % 64 ^^^ f))

/-- Stack and stack line of a band offset y in linear mode (R293). -/
def linearPlace (y : Nat) : Nat × Nat := (y / 2 ^ 30, (y % 2 ^ 30) / 512)

/-- Number of the line that holds HBM offset x: (stack * 36 + band) * 2^21 + stack line. -/
def hbmLine (spread x : Nat) : Nat :=
  let b := x / bandSize
  let y := x % bandSize
  let p := if bit spread b then spreadPlace (y / 512) else linearPlace y
  (p.1 * 36 + b) * 2 ^ 21 + p.2

def lineStack (l : Nat) : Nat := l / (36 * 2 ^ 21)
def linePc (l : Nat) : Nat := l % 64

/-- HBM_BAND.SPREAD. -/
def State.spread (s : State) : Nat := bits (s.dreg64 0x10000) 35 0

def State.hbmLineOf (s : State) (a : Nat) : Nat := hbmLine s.spread (gaOff a)

/-- NCH, and the bytes of the DDR5 space (R300). -/
def State.nch (s : State) : Nat := bits (s.dreg 0x12000) 19 16
def State.ddrSize (s : State) : Nat := s.nch * 2 ^ (30 + bits (s.dreg 0x12000) 23 20)

/-- The channel of DDR5 line l: the trained channels in use, lowest first (R300, R431). -/
def State.ddrChan (s : State) (l : Nat) : Nat :=
  ((upto 8).filter fun c => bit (s.dreg 0x12020) c).getD (l % max 1 s.nch) 0

/-- Bank set of DDR5 line l (R301). -/
def State.ddrSet (s : State) (l : Nat) : Nat := (l / max 1 s.nch) % 4

/-- n bytes at address a lie in HBM, DDR5 or a scratchpad of this device (R289, R290). -/
def State.memOk (s : State) (a n : Nat) : Bool :=
  let x := gaOff a
  if gaSpace a == spHbm then decide (x + n ≤ hbmSize)
  else if gaSpace a == spDdr then decide (x + n ≤ s.ddrSize)
  else gaSpace a == spSp && x >>> 20 < nCores && decide (x % 2 ^ 20 + n ≤ 2 ^ 20)

/-! ### Refresh windows (R295, R301) -/

/-- End of the last refresh window of the bank that holds address a. -/
def State.bankEnd (s : State) (a : Nat) : Nat :=
  if gaSpace a == spHbm then
    let l := s.hbmLineOf a
    aget 0 s.mem.hbmWin (lineStack l * 64 + linePc l)
  else if gaSpace a == spDdr then
    let l := gaOff a / 512
    aget 0 s.mem.ddrWin (s.ddrChan l * 4 + s.ddrSet l)
  else 0

/-- The bank of address a is in its refresh window. -/
def State.refreshing (s : State) (a : Nat) : Bool := decide (s.refCount < s.bankEnd a)

/-- When the last of the banks that hold n bytes from address a on leaves the window that it is in now. -/
def State.accessEnd (s : State) (a n : Nat) : Nat :=
  (upto ((gaOff a % 512 + n + 511) / 512)).foldl (fun t i => max t (s.bankEnd (a - gaOff a % 512 + 512 * i))) 0

/-- A tick of the old count as one of the new count, where the old one stands at ns and the new one begins at now; 0 if it lies
further back. -/
def toCount (ns now t : Nat) : Nat := now + t - ns

/-- At the first run of the screed counter, from now on, a window that is open runs on, and a pseudo-channel or bank set whose
next window would come later than a period after its last one opens a window at once (R295, R301). next gives the wait until
the next scheduled one. -/
def changeover (win : AMap Nat) (ns now period len : Nat) (next : Nat → Nat) : AMap Nat :=
  win.filterMap fun x =>
    if ns < x.2 then some (x.1, toCount ns now x.2)
    else if ns + next x.1 > x.2 - len + period then some (x.1, now + len)
    else none

/-- Wait from tick now until a place of the period comes. -/
def waitUntil (now period place : Nat) : Nat := (place % period + period - now % period) % period

/-- The next window of pseudo-channel i % 64 of stack i / 64 at doubled or single refresh (R295, R296). -/
def hbmNext (doubled : Nat) (now i : Nat) : Nat :=
  let w := waitUntil now 3840 (120 * (i % 32))
  if bit doubled (i / 64) then min w (waitUntil now 3840 (1920 + 120 * (i % 32))) else w

/-- The memories pass to screed time, which begins at now. -/
def State.windowsTo (s : State) (now : Nat) : State :=
  let ns := s.scr.ns
  let h := changeover s.mem.hbmWin ns now 3840 120 (hbmNext (s.dreg 0x10008) now)
  let d := changeover s.mem.ddrWin ns now 1920 130 fun i => waitUntil now 1920 (480 * (i % 4) + 60 * (i / 4))
  let ms := s.mem.merges.map fun m =>
    if ns ≤ m.upto then { m with upto := toCount ns now m.upto } else { m with live := false }
  let r := s.mem.refNext.map fun x => (x.1, (x.2.1, toCount ns now x.2.2))
  { s with mem := { s.mem with hbmWin := h, ddrWin := d, merges := ms, refNext := r } }

/-! ### Lines -/

/-- Byte key of a line in the maps of Tiers. -/
def State.lineKey (s : State) (a : Nat) : Nat := if gaSpace a == spHbm then s.hbmLineOf a else gaOff a / 512

/-- The stack that holds the line does not train (R430). -/
def State.stackOut (s : State) (a : Nat) : Bool :=
  gaSpace a == spHbm && bit (s.dreg 0x10040) (lineStack (s.hbmLineOf a))

/-- Bytes and poison of the line of HBM or DDR5 that holds address a. Without its keys DDR5 holds nothing that can be
read (R302). -/
def State.lineAt (s : State) (a : Nat) : List Byte × Bool :=
  let l := s.lineKey a
  if gaSpace a == spHbm then
    (mgets s.mem.hbm (512 * l) 512, aget false s.mem.hbmPoison l || s.stackOut a)
  else if !s.sec.ddrKeys then (toBytes 512 (Config.lostLine l).toNat, aget false s.mem.ddrPoison l)
  else (mgets s.mem.ddr (512 * l) 512, aget false s.mem.ddrPoison l)

def setMark (m : AMap Bool) (k : Nat) (p : Bool) : AMap Bool := if p then aput m k true else adel m k

/-- Bytes of the line of address a, from offset o on, and its poison replaced; a stack that did not train discards
them. -/
def State.setLineAt (s : State) (a o : Nat) (bs : List Byte) (p : Bool) : State :=
  let l := s.lineKey a
  if s.stackOut a then s
  else if gaSpace a == spHbm then
    { s with mem := { s.mem with hbm := mputs s.mem.hbm (512 * l + o) bs, hbmPoison := setMark s.mem.hbmPoison l p } }
  else
    { s with mem := { s.mem with ddr := mputs s.mem.ddr (512 * l + o) bs, ddrPoison := setMark s.mem.ddrPoison l p } }

/-- Global address of the line that holds address a, as this device writes it. -/
def State.lineBase (s : State) (a : Nat) : Nat := gaMake s.fab.coord (gaSpace a) (gaOff a / 512 * 512)

/-- The page of line l as HBM_PAGE records name it: STACK, PCH, HBANK, HROW (Table 16-6). -/
def hbmPageOf (l : Nat) : Nat := lineStack l + linePc l <<< 4 + (Config.hbmPage l).toNat <<< 10

/-- What a controller does about an error that its ECC finds in a line (R297, R298, R301). A page is nominated once:
at its third corrected error or its first uncorrectable one. -/
def State.eccFound (s : State) (a : Nat) (e : EccFind) : State :=
  let hbm := gaSpace a == spHbm
  let unit := if hbm then 3 else 4
  let base := s.lineBase a
  let page := if hbm then hbmPageOf (s.lineKey a) else 0
  let n := aget 0 s.mem.pageCe page
  match e with
  | .clean => s
  | .corrected =>
    let s := (s.bumpD (if hbm then 0x10010 else 0x12004)).emit evMemCe none (some clsCorrected) ([unit] ++ lohi base)
    if !hbm || n ≥ 3 then s
    else
      let s := { s with mem := { s.mem with pageCe := aput s.mem.pageCe page (n + 1) } }
      if n == 2 then s.nominate page else s
  | .uncorrectable _ _ =>
    let s := (s.bumpD (if hbm then 0x10014 else 0x12008)).setDreg64 (if hbm then 0x10020 else 0x12010) base
    let s := s.emit evMemUe none (some clsUncorrected) ([unit] ++ lohi base)
    if !hbm || n ≥ 3 then s
    else ({ s with mem := { s.mem with pageCe := aput s.mem.pageCe page 3 } } : State).nominate page

def eccBad : EccFind → Bool
  | .uncorrectable _ _ => true
  | _ => false

/-- A controller reads a line (R297). -/
def State.readLine (s : State) (a : Nat) (e : EccFind) : State × List Byte × Bool :=
  let x := s.lineAt a
  (s.eccFound a e, x.1, x.2 || eccBad e)

/-- A write of a whole line: merge entries of the line take no further joiner (R248). -/
def State.closeMerges (s : State) (a : Nat) : State :=
  if gaSpace a != spHbm then s
  else
    let l := s.hbmLineOf a
    { s with mem := { s.mem with merges := s.mem.merges.map fun m => if m.line == l then { m with live := false } else m } }

def State.writeLine (s : State) (a : Nat) (bs : List Byte) (p : Bool) : State :=
  (s.closeMerges a).setLineAt a 0 bs p

/-- The bytes at offsets o to o + n of a line hold every byte of a failing word. -/
def coversFail (o n : Nat) : EccFind → Bool
  | .uncorrectable lo m => decide (o ≤ lo) && decide (lo + m ≤ o + n)
  | _ => true

/-- A write that is merged into its line (R290, R297). -/
def State.mergeWrite (s : State) (a : Nat) (bs : List Byte) (e : EccFind) : State :=
  let o := gaOff a % 512
  let p := (s.lineAt a).2 || (eccBad e && !coversFail o bs.length e)
  ((s.closeMerges a).eccFound a e).setLineAt a o bs p

/-! ### Rows of a line -/

/-- Eight rows with one poison mark. -/
def rowsOfLine (bs : List Byte) (p : Bool) : List (BitVec 512 × Bool) :=
  (upto 8).map fun j => (BitVec.ofNat 512 (ofBytes ((bs.drop (64 * j)).take 64)), p)

def bytesOfRows (rows : List (BitVec 512 × Bool)) : List Byte := rows.flatMap fun r => toBytes 64 r.1.toNat

/-- Eight rows of a core's scratchpad read from outside; one poisoned row poisons the line (R247). -/
def State.readSpLine (s : State) (a : Nat) : State × List Byte × Bool :=
  let c := gaOff a >>> 20
  (upto 8).foldl (fun x j =>
    let r := x.1.readRow c (rowOf a + j)
    (r.1, x.2.1 ++ toBytes 64 r.2.1.toNat, x.2.2 || r.2.2)) (s, [], false)

/-- A line for a scratchpad joins the landing queue of its core (R171). -/
def State.queueSpLine (s : State) (sender a : Nat) (bs : List Byte) (p : Bool) (fin : ExtEnd) : State :=
  let rows : List ExtRow := (upto 8).map fun j =>
    ⟨rowOf a + j, ((bs.drop (64 * j)).take 64).map some, p, if j == 7 then fin else .none, 0, 0⟩
  let c := gaOff a >>> 20
  s.modCore c fun k => k.arrive (s.cyc c) sender rows

/-! ### Merge entries (R248) -/

/-- The entry takes another joiner. -/
def Merge.joinable (m : Merge) (now : Nat) : Bool := m.live && decide (now ≤ m.upto) && decide (m.joiners.length < 64)

/-- Entries that can still matter. -/
def keptMerges (l : List Merge) (now : Nat) : List Merge :=
  l.filter fun m => m.joinable now || !m.got || decide (m.served < m.joiners.length)

/-- A read of HBM line l by a joiner finds an open entry: it joins. -/
def State.joinMerge (s : State) (l : Nat) (who : Nat × Nat × Nat) : Option State :=
  let now := s.refCount
  let ms := keptMerges s.mem.merges now
  if ms.any (fun m => m.line == l && m.joinable now) then
    let join (m : Merge) : Merge := if m.line == l && m.joinable now then { m with joiners := m.joiners ++ [who] } else m
    some { s with mem := { s.mem with merges := ms.map join } }
  else none

/-- The read opens an entry, which takes joiners for 256 tk. -/
def State.openMerge (s : State) (l : Nat) (who : Nat × Nat × Nat) : State :=
  let now := s.refCount
  { s with mem := { s.mem with
      merges := keptMerges s.mem.merges now ++ [⟨l, now + 256, false, [], false, 0, [who], true, 0⟩] } }

def eccNo : EccFind → Nat
  | .clean => 0
  | .corrected => 1
  | .uncorrectable _ _ => 2

/-- The line of the oldest entry of line l that is not read yet is read, once for all its joiners. -/
def State.fillMerge (s : State) (l a : Nat) (e : EccFind) : State :=
  match s.mem.merges.findIdx? fun m => m.line == l && !m.got with
  | none => s
  | some i =>
    let r := s.readLine a e
    let ms := r.1.mem.merges
    match ms[i]? with
    | some m =>
      { r.1 with mem := { r.1.mem with merges := lset ms i { m with got := true, data := r.2.1, poison := r.2.2, ecc := eccNo e } } }
    | none => s

end Sys2Proof.Machine
end

