-- ==== Sys2Proof/Machine/Lines.lean ====
section
/-!
DEFINITION. Lines at their destination and back (R242 to R248), and the refresh of the memories (R295, R296, R301).
-/

namespace Sys2Proof.Machine

/-! ### Service at a controller or scratchpad -/

/-- What serves an address: HBM stack, DDR5 channel, scratchpad. -/
def State.server (s : State) (a : Nat) : Nat :=
  if gaSpace a == spHbm then lineStack (s.hbmLineOf a)
  else if gaSpace a == spDdr then 16 + s.ddrChan (gaOff a / 512)
  else 32 + gaOff a >>> 20

/-- A line has returned to the core in cycle cyc: it stands behind the lines that returned before it, and among those
of the same cycle in the order of the requests (R242; a core's pool grants one tag a cycle, so the cycle of the request
orders them). -/
def Core.lineBack (k : Core) (tag cyc : Nat) (f : Line → Line) : Core :=
  match k.lineOf tag with
  | none => k
  | some l =>
    let rest := k.lines.filter fun x => !(x.tag == tag && x.stage < 4)
    let later (x : Line) : Bool := x.stage == 2 && !x.write && x.back == cyc && decide (l.at0 < x.at0)
    { k with lines := (rest.filter fun x => !later x) ++ [{ f l with back := cyc }] ++ rest.filter later }

/-- The largest latency of a stack's reads (R291). -/
def State.noteLatency (s : State) (a tick0 : Nat) : State :=
  let r := 0x10100 + 4 * lineStack (s.hbmLineOf a)
  s.setDreg r (max (s.dreg r) (min (s.scr.now - tick0) (2 ^ 32 - 1)))

/-- An inbound request of this device is answered, and its place is free (R338). -/
def State.respond (s : State) (coord tag addr op : Nat) (data : List Byte) (poison : Bool) (x : List Nat) : State :=
  (({ s with fab := { s.fab with inb := s.fab.inb - 1 } } : State).fabSend op coord tag addr data poison x).1

/-- The line that a requester asked for goes to it: a core of this device, or, from 2,048 on, another device. -/
def State.lineTo (s : State) (who : Nat × Nat) (addr : Nat) (bs : List Byte) (p : Bool) (ecc : Nat) (shared : Bool) : State :=
  if who.1 ≥ 2048 then s.respond (who.1 - 2048) who.2 addr 0x21 bs p [ecc]
  else
    match (s.core who.1).lineOf who.2 with
    | none => s
    | some l =>
      if l.stage != 1 || l.write then s
      else
        let s := s.modCore who.1 fun k => k.lineBack who.2 (s.cyc who.1) fun l =>
          { l with data := rowsOfLine bs p, stage := 2, merged := shared }
        if gaSpace l.mem == spHbm then s.noteLatency l.mem l.tick0 else s

/-- A write of a line is acknowledged. -/
def State.ackTo (s : State) (who : Nat × Nat) (addr : Nat) : State :=
  if who.1 ≥ 2048 then s.respond (who.1 - 2048) who.2 addr 0x22 [] false []
  else s.modCore who.1 fun k => match k.lineOf who.2 with
    | some l => if l.stage == 1 && l.write then k.setLine who.2 { l with stage := 2 } else k
    | none => k

/-! ### Memory controllers and scratchpads (R245, R248, R295, R301, R336) -/

/-- What orders requests: the engine of a core, or another device. -/
def State.sourceOf (s : State) (h : Held) : Nat × Nat :=
  (h.who.1, if h.who.1 ≥ 2048 then 0 else match (s.core h.who.1).lineOf h.who.2 with | some l => l.eng | none => 4)

/-- Outstanding lines of the HBM controllers: a merge entry counts once (R241, R248). -/
def State.outstanding (s : State) : Nat :=
  (s.mem.merges.countP fun m => !m.got || decide (m.served < m.joiners.length)) +
    s.mem.held.countP fun h => h.write.isSome && gaSpace h.addr == spHbm

/-- The place of a request is closed to it: its bank is in a refresh window, or it reads a scratchpad in which rows that its
source wrote before are not visible yet (R245). -/
def State.blocked (s : State) (h : Held) : Bool :=
  if gaSpace h.addr == spSp then
    let k := s.core (gaOff h.addr >>> 20)
    h.write.isNone && ((k.ext.any fun x => x.sender == h.who.1) || k.extWait.any fun x => match x.fin with
      | .ackLocal c _ => c == h.who.1
      | .ackRemote y _ _ => 2048 + y == h.who.1
      | _ => false)
  else s.refreshing h.addr

/-- Whether a request waits: its place is closed to it, an earlier one of its source waits there, or 32,768 lines are
outstanding. -/
def State.mustWait (s : State) (before : List Held) (h : Held) : Bool :=
  s.blocked h || (gaSpace h.addr == spHbm && decide (32768 ≤ s.outstanding)) ||
    before.any fun x => s.sourceOf x == s.sourceOf h && s.server x.addr == s.server h.addr

/-- A request is served: a line is written and acknowledged, or read for its requester or its merge entry. A line for a
scratchpad joins the landing queue, and is acknowledged when it is visible (R246). -/
def State.serveReq (s : State) (h : Held) : State :=
  match h.write with
  | some (bs, p) =>
    if gaSpace h.addr == spSp then
      s.queueSpLine h.who.1 h.addr bs p
        (if h.who.1 ≥ 2048 then .ackRemote (h.who.1 - 2048) h.who.2 h.addr else .ackLocal h.who.1 h.who.2)
    else (s.writeLine h.addr bs p).ackTo h.who h.addr
  | none =>
    if gaSpace h.addr == spSp then
      let r := s.readSpLine h.addr
      r.1.lineTo h.who h.addr r.2.1 r.2.2 0 false
    else
    if gaSpace h.addr == spHbm then
      let l := s.hbmLineOf h.addr
      let s := if s.mem.merges.any fun m => m.line == l && !m.got then s else s.openMerge l (h.who.1, h.who.2, h.addr)
      s.fillMerge l h.addr h.ecc
    else
      let r := s.readLine h.addr h.ecc
      r.1.lineTo h.who h.addr r.2.1 r.2.2 (eccNo h.ecc) false

/-- A request reaches its controller. An HBM read joins an open merge entry or opens one on its arrival, also while its bank is
in its refresh window (R248, R295); a write ends the joining. -/
def State.atController (s : State) (h : Held) : State :=
  let wait := s.mustWait s.mem.held h
  let hold (s : State) : State := { s with mem := { s.mem with held := s.mem.held ++ [h] } }
  let read := h.write.isNone && gaSpace h.addr == spHbm
  match if read then s.joinMerge (s.hbmLineOf h.addr) (h.who.1, h.who.2, h.addr) else none with
  | some t => t
  | none =>
    let full := decide (32768 ≤ s.outstanding)
    let s := if read then (if full then s else s.openMerge (s.hbmLineOf h.addr) (h.who.1, h.who.2, h.addr))
      else if h.write.isSome then s.closeMerges h.addr else s
    if wait then hold s else s.serveReq h

/-- The arbitration point of a controller, and the input on which a request reaches it (R17, R343, R344). -/
def ctlPoint (server : Nat) : Nat := if server < 16 then 40 + server else 44 + server

def State.ctlInput (s : State) (h : Held) : Req :=
  let sv := s.server h.addr
  let d := dieOf h.who.1
  let i := if sv < 16 then
      (if h.who.1 ≥ 2048 then 3 else if d == sv / 3 then 0 else if d / 2 == sv / 3 / 2 then 1 else 2)
    else if h.who.1 ≥ 2048 then 4 else d
  (i, if sv < 16 then s.hbmWeight i else s.ddrWeight i)

/-- The waiting requests that can be served: none of their source waits before them. -/
def State.readyFrom (s : State) : List Held → List Held → List Held
  | _, [] => []
  | before, h :: rest =>
    (if s.blocked h || (before.any fun x => s.sourceOf x == s.sourceOf h && s.server x.addr == s.server h.addr)
      then [] else [h]) ++ s.readyFrom (before ++ [h]) rest

/-- Waiting requests whose window has closed are served, each controller's in the order of its arbitration point. -/
def State.serveWaiting : Nat → State → State
  | 0, s => s
  | n + 1, s =>
    match s.readyFrom [] s.mem.held with
    | [] => s
    | h0 :: rest =>
      let serve (s : State) (h : Held) : State :=
        ({ s with mem := { s.mem with held := s.mem.held.erase h } } : State).serveReq h
      let ready := (h0 :: rest).filter fun h => s.server h.addr == s.server h0.addr
      if 32 ≤ s.server h0.addr then (serve s h0).serveWaiting n
      else
        let pt := ctlPoint (s.server h0.addr)
        let req (l : List Held) : List Req := (l.map s.ctlInput).dedup
        match s.arbPick pt (req ready) with
        | none => s
        | some g =>
          match ready.find? fun h => (s.ctlInput h).1 == g with
          | none => s
          | some h =>
            let units := beatsOf (match h.write with | some _ => 512 | none => 0)
            let s := s.arbSend pt g units (req ready) (req (ready.erase h))
            (serve s h).serveWaiting n

/-! ### Requests of this device (R238, R245, R343) -/

/-- The line request of a core that leaves next: the first one that has not left. -/
def State.egress (s : State) (c : Nat) : Option Line :=
  (s.core c).lines.find? fun l => l.stage == 0 && !l.bad && gaCoord l.mem == s.fab.coord

/-- The compute die that a request ends on; 4 the hub die. -/
def State.lineDie (s : State) (a : Nat) : Nat :=
  if gaSpace a == spHbm then lineStack (s.hbmLineOf a) / 3 else if gaSpace a == spSp then dieOf (gaOff a >>> 20) else 4

def Line.units (l : Line) : Nat := beatsOf (if l.write then 512 else 0)

/-- Inputs that request at the egress of bay b, and at that of die d for requests that leave the die. -/
def State.bayReqs (s : State) (b : Nat) : List Req :=
  (upto 56).filterMap fun i => (s.egress (56 * b + i)).map fun _ => (i, bayWeight)

def State.dieReqs (s : State) (d : Nat) : List Req :=
  (upto 8).filterMap fun i =>
    if (upto 56).any fun j => (s.egress (56 * (8 * d + i) + j)).any fun l => s.lineDie l.mem != d then some (i, dieBayWeight)
    else none

/-- Whether the egress of the bay, and for a request that leaves the die that of the die, sends this request of core c next
(R343); none leaves the bay in a cycle in which its crossing holds the writer (R357). -/
def State.granted (s : State) (c : Nat) (l : Line) : Bool :=
  let b := bayOf c
  let d := dieOf c
  !(s.core c).is.pressed && ((s.egress c).any fun x => x.tag == l.tag) && s.arbPick b (s.bayReqs b) == some (c % 56) &&
    (s.lineDie l.mem == d || s.arbPick (32 + d) (s.dieReqs d) == some (b % 8))

/-- The request has left core c: the counters of the points that it passed. left is the state in which it has left. -/
def State.passed (s left : State) (c : Nat) (l : Line) : State :=
  let b := bayOf c
  let d := dieOf c
  let t := { left with arb := (s.arbSend b (c % 56) l.units (s.bayReqs b) (left.bayReqs b)).arb }
  if s.lineDie l.mem == d then t else t.arbSend (32 + d) (b % 8) l.units (s.dieReqs d) (left.dieReqs d)

/-- A line request comes to its destination (R245 to R248, R290). -/
def State.serveLine (s : State) (c : Nat) (l : Line) (e : EccFind) : State :=
  if !s.memOk l.mem 512 then s.modCore c fun k => k.setLine l.tag { l with bad := true }
  else
    let s := s.modCore c fun k => k.setLine l.tag { l with stage := 1 }
    s.atController ⟨(c, l.tag), l.mem, if l.write then some (bytesOfRows l.data, l.data.any (·.2)) else none, e⟩

/-- `MEMORY_REQUEST` (R245): the request that the arbitration sends next reaches its controller or scratchpad, where it is
served, or waits for a refresh window. -/
def execMemoryRequest (c tag : Nat) (ecc : EccFind) (s : State) : Res := onCore c s fun s =>
  match (s.core c).lineOf tag with
  | none => s
  | some l =>
    if l.stage != 0 || l.bad || gaCoord l.mem != s.fab.coord || !s.granted c l then s
    else s.passed (s.serveLine c l ecc) c l

/-! ### Merged reads -/

/-- The entry returns its line to every joiner that has none yet (R248, R249). -/
def State.returnMerge (s : State) (i : Nat) (m : Merge) : State :=
  let n := m.joiners.length
  let s := (m.joiners.drop m.served).foldl
    (fun s w => s.lineTo (w.1, w.2.1) w.2.2 m.data m.poison m.ecc (decide (2 ≤ n))) s
  let ms := lset s.mem.merges i { m with served := n }
  { s with mem := { s.mem with merges := keptMerges ms s.refCount } }

/-- `MERGED_LINE_RETURN` (R248). -/
def execMergedLineReturn (entry : Nat) (s : State) : Res :=
  .next (match s.mem.merges[entry]? with
    | some m => if m.got then s.returnMerge entry m else s
    | none => s)

/-! ### Landing (R171, R242) -/

/-- A row write at the landing port; held where its bank serves another row, that of a landing before it in the order
of R63 among them. who: the engine, 4 for the queue. Visible three cycles later, on FV2 two (Table 09-1). -/
def Core.landRow (k : Core) (who row cyc : Nat) (bytes : List (Option Byte)) (p : Bool) (done : Core → Core) : Core :=
  if !k.is.granted || k.is.noBeat || k.is.landers.contains who then k
  else
    let won := k.landWins who row
    let k : Core := { k with is := { k.is with landers := who :: k.is.landers } }
    if !won then k.held
    else
      let k := k.usePort true row 3
      done { k with inflight := k.inflight ++ [(⟨.row 3 row bytes p, false, cyc + 3, cyc + 2, k.is.serial, who⟩ : Due)] }

/-- A row of the line with this tag lands; with the eighth the line has landed, and its segment may become LANDED. -/
def Core.landLine (k : Core) (tag cyc : Nat) : Core :=
  match k.lineOf tag with
  | none => k
  | some l =>
    match k.landing l.eng, l.nextRow with
    | some f, some (v, p) =>
      if f.tag != tag then k
      else
        k.landRow l.eng (l.row + l.landed) cyc (wholeRow v) p fun k =>
          if l.landed < 7 then k.setLine tag { l with landed := l.landed + 1 }
          else
            let k := k.setLine tag { l with landed := 8, stage := 3, visAt := cyc + 3 }
            let k := k.bump (rSeLinesIn l.eng)
            let k := if l.merged then k.bump (rSeMerged l.eng) else k
            let k := if l.data.any (·.2) then k.bump rSePoison else k
            k.settleSegs cyc
    | _, _ => k

/-- The first row of the landing queue lands. -/
def Core.landExt (k : Core) (cyc : Nat) : Core :=
  match k.ext with
  | [] => k
  | x :: rest =>
    k.landRow 4 x.row cyc x.bytes x.poison fun k =>
      { k with ext := rest, extWait := if x.fin == .none then k.extWait else k.extWait ++ [⟨x.fin, cyc + 3⟩] }

/-- `LINE_ROW_LAND` (R242). -/
def execLineRowLand (c : Nat) (src : LandSrc) (s : State) : Res := onCore c s fun s =>
  let cyc := s.cyc c
  s.modCore c fun k => match src with
    | .line tag => k.landLine tag cyc
    | .ext => k.landExt cyc

/-- Writes from outside that are visible are acknowledged (R246). -/
def State.extAcks (s : State) (c : Nat) : State :=
  let cyc := s.cyc c
  let isAck (x : ExtWait) : Bool :=
    decide (x.visAt ≤ cyc) && match x.fin with
      | .ackLocal _ _ => true
      | .ackRemote _ _ _ => true
      | _ => false
  let ready := (s.core c).extWait.filter isAck
  let s := s.modCore c fun k => { k with extWait := k.extWait.filter fun x => !isAck x }
  ready.foldl (fun s x => match x.fin with
    | .ackLocal d t => s.ackTo (d, t) 0
    | .ackRemote y t a => s.ackTo (2048 + y, t) a
    | _ => s) s

/-! ### Completion and errors -/

/-- `LINE_COMPLETE` (R246): the tag returns. -/
def execLineComplete (c tag : Nat) (s : State) : Res := onCore c s fun s =>
  let cyc := s.cyc c
  s.modCore c fun k =>
    match k.lineOf tag with
    | none => k
    | some l =>
      if l.write && l.stage == 2 then (k.bump (rSeLinesOut l.eng)).dropLine tag cyc
      else if !l.write && l.stage == 3 && decide (l.visAt ≤ cyc) then k.dropLine tag cyc
      else k

/-- The line was answered with an error: its tag returns, and it never becomes visible. -/
def Core.failLine (k : Core) (tag cyc : Nat) (l : Line) : Core :=
  let k := k.setLine tag { l with stage := 4 }
  let e := k.engine l.eng
  if e.run == 2 && k.tags l.eng == 0 then k.setEngine l.eng { e with run := 0, nextAt := cyc + 1 } else k

/-- `LINE_ERROR_RESPONSE` (R247): the engine takes the violation, whatever the code of the response. -/
def execLineErrorResponse (c tag _code : Nat) (s : State) : Res := onCore c s fun s =>
  match (s.core c).lineOf tag with
  | none => s
  | some l =>
    if !l.bad then s
    else (s.modCore c fun k => k.failLine tag (s.cyc c) l).seViol c l.eng 8 6 l.mem

/-! ### Refresh -/

/-- Places of the windows of pseudo-channel p (R295, R296). -/
def hbmWindowDue (t p : Nat) (doubled : Bool) : Option Bool :=
  let w := 120 * (p % 32)
  if t % 3840 == w then some false else if doubled && t % 3840 == (1920 + w) % 3840 then some true else none

/-- `HBM_REFRESH_WINDOW` (R295): the window opens on its tick; an added one counts. -/
def execHbmRefreshWindow (n pc : Nat) (s : State) : Res := onUnit (decide (n < 12) && decide (pc < 64)) s fun s =>
  match hbmWindowDue s.refCount pc (bit (s.dreg 0x10008) n) with
  | none => s
  | some added =>
    let s := { s with mem := { s.mem with hbmWin := aput s.mem.hbmWin (n * 64 + pc) (s.refCount + 120) } }
    if added then s.bumpD 0x1000C else s

/-- `HBM_TEMP_REPORT` (R296): the stack reports a temperature; the change comes with HBM_REF_RATE. -/
def execHbmTempReport (n deg : Nat) (s : State) : Res := onUnit (decide (n < 12)) s fun s =>
  let note (b : Bool) : State := { s with mem := { s.mem with refNext := aput s.mem.refNext n (b, s.refCount) } }
  if deg > 85 then note true else if deg ≤ 82 then note false else s

/-- `HBM_REF_RATE` (R296). -/
def execHbmRefRate (n : Nat) (s : State) : Res := onUnit (decide (n < 12)) s fun s =>
  let t := s.refCount
  match afind s.mem.refNext n with
  | none => s
  | some (b, t0) =>
    if t % 3840 != 0 || t ≤ t0 then s
    else
      let old := s.dreg 0x10008
      let s := { s with mem := { s.mem with refNext := adel s.mem.refNext n } }
      if bit old n == b then s
      else (s.setDreg 0x10008 (setBits old n n (b2n b))).emit evHbmRefRate none none [n + 16 * b2n b]

/-- `DDR_REFRESH_WINDOW` (R301). -/
def execDdrRefreshWindow (ch set : Nat) (s : State) : Res :=
  onUnit (decide (ch < 8) && decide (set < 4)) s fun s =>
    if s.refCount % 1920 != (480 * set + 60 * ch) % 1920 then s
    else { s with mem := { s.mem with ddrWin := aput s.mem.ddrWin (ch * 4 + set) (s.refCount + 130) } }

end Sys2Proof.Machine
end

