-- ==== Sys2Proof/Machine/MatrixOps.lean ====
section
/-!
DEFINITION. The arrays and the weight stage (R73 to R97): operand reads, products, block closes, retirement, WLD.
-/

namespace Sys2Proof.Machine

/-- A read of a weight column (R85): error bookkeeping, the line, its poison. -/
def State.readCol (s : State) (c col : Nat) : State × BitVec 512 × Bool :=
  let k := s.core c
  let errs (kind : Nat) : Nat := ((upto 8).filter fun g => aget 0 k.mx.wsErr (col * 8 + g) == kind).length
  let ce := errs 1
  let ue := errs 2
  let s := if ce == 0 then s else (s.modCore c (Core.bumpBy · rWsCe ce)).emit evMemCe (some c) (some clsCorrected)
    ([2] ++ lohi col)
  let s := if ue == 0 then s else (s.modCore c (Core.bumpBy · rWsUe ue)).emit evMemUe (some c)
    (some clsUncorrected) ([2] ++ lohi col)
  (s, aget 0#512 k.mx.ws col, aget false k.mx.wsPoison col || ue != 0)

/-- Several columns, in order. -/
def State.readCols (s : State) (c : Nat) : List Nat → State × List (BitVec 512) × Bool
  | [] => (s, [], false)
  | col :: cols =>
    let r := s.readCol c col
    let t := r.1.readCols c cols
    (t.1, r.2.1 :: t.2.1, r.2.2 || t.2.2)

/-- Lane i of a weight line: its 16-bit cell (R75). -/
def cell (line : BitVec 512) (i : Nat) : Nat := bits line.toNat (16 * i + 15) (16 * i)

/-- Element at position r of a 16-bit cell (R76). -/
def cellElem (w r x : Nat) : Nat := bits x (w * r + w - 1) (w * r)

/-- Weight operand of a forward read: element (i, q) at i * k + q (R76). -/
def weightFwd (t : Tag) (line : BitVec 512) : List FVal :=
  (upto 32).flatMap fun i => (upto t.k).map fun q => t.w.decode (cellElem t.w.width q (cell line i))

/-- Weight operand of a transposed read: element (q, r) at r * k' + q; sc gives each lane's folded scale for the
ternary tag (R86, R87). -/
def weightTr (t : Tag) (rk lg : Nat) (lines : List (BitVec 512)) (sc : Option (BitVec 512)) (half : Nat) : List FVal :=
  let e := 16 / t.w.width
  (upto 32).flatMap fun r => (upto rk).map fun q =>
    let lane := rk * lg + q
    let v := t.w.decode (cellElem t.w.width (r % e) (cell (lines.getD (r / e) 0#512) lane))
    match sc with
    | none => v
    | some col =>
      let x := bits (cell col lane) (8 * half + 7) (8 * half)
      if x == 255 then .nan else fscale ((x : Int) - 127) v

/-- Activation operand: element (q, j) at j * k + q, from the bits of its rows (R77). -/
def activation (t : Tag) (rk : Nat) (row : Nat) : List FVal :=
  let b := t.a.width
  (upto (32 * rk)).map fun i => t.a.decode (bits row (b * i + b - 1) (b * i))

/-- The weight side of a product: state, operand, poison. A scale column that lies before column 0 does not exist:
its bits are a free value (log entry 13). -/
def State.weightSide (s : State) (c : Nat) (x : MatSlot) (t : Tag) : State × List FVal × Bool :=
  let col := x.wsa / 4
  if x.axis == 0 then
    let r := s.readCol c col
    (r.1, weightFwd t r.2.1, r.2.2)
  else
    let e := 16 / t.w.width
    let r := s.readCols c ((upto (32 / e)).map fun i => col + i)
    let rk := effRank t x.axis
    if x.fmt == 0xE then
      let back := 1 + x.half * (32 / e)
      if back ≤ col then
        let z := r.1.readCol c (col - back)
        (z.1, weightTr t rk x.sel r.2.1 (some z.2.1) x.half, r.2.2 || z.2.2)
      else
        let n := r.1.free
        ({ r.1 with free := n + 1 }, weightTr t rk x.sel r.2.1 (some (Config.freeBits 512 n)) x.half, r.2.2)
    else (r.1, weightTr t rk x.sel r.2.1 none 0, r.2.2)

/-- Close of a bank's open block (R92, R117 to R122); pad positions hold zeros of positive sign. -/
def Bank.close (b : Bank) (pad : Nat) : Bank :=
  let acc := (upto 1024).map fun n =>
    let i := n / 32
    let j := n % 32
    closeCell b.rank b.int (b.sw.getD i 127) (b.sa.getD j 127) pad (b.acc.getD n 0#32) (cellProducts b.opn i j)
  { b with acc, opn := [], phase := 0, lastFmt := b.fmt, blocks := min (b.blocks + 1) 2047 }

/-- FV1 mode: every product is rounded into its accumulator (R97, R129). -/
def Bank.fv1 (b : Bank) (p : Prd) : Bank :=
  let acc := (upto 1024).map fun n =>
    let ps := cellProducts [p] (n / 32) (n % 32)
    let x := b.acc.getD n 0#32
    if b.int then (if ps.isEmpty then x else closeInt x ps) else fv1Add x ps
  { b with acc }

/-- A bank as INIT leaves it before the product is added (R89). -/
def Bank.start (b : Bank) (integer : Bool) : Bank :=
  { Bank.init with st := 1, int := integer, lastFmt := b.lastFmt, vis := b.vis }

/-- A product added to a bank with its array's latch (R79, R90, R117). R79 applies the latched weight scale to a block
and R87 folds each weight's own scale into a transposed T2_MXFP4 operand: a block that such a product opens takes 2^0
for its weight scale, and every product of a block has the scales that it was opened with (DESIGN CHOICE, log entry
101). -/
def addProduct (t : Tag) (rk fmt : Nat) (tr : Bool) (p : Prd) (b : Bank) (l : Latch) : Bank × Latch :=
  let b := if b.phase == 0 then
      let f (w : Nat × Nat) : Nat := if l.half == 0 then w.1 else w.2
      { b with rank := rk, scaled := t.scaled, fmt, opn := [],
               sw := if !t.scaled || tr then List.replicate 32 127 else l.w.map f,
               sa := if !t.scaled then List.replicate 32 127 else l.a.map f,
               poison := b.poison || (t.scaled && l.poison) }
    else b
  let b := { b with opn := b.opn ++ [p], phase := b.phase + rk }
  if b.phase ≥ 32 then (b.close 0, { l with half := 1 - l.half }) else (b, l)

/-- The scales that SRD latches (R78, R79). -/
def latchScales (l : Latch) (wcol arow : Nat) (poison : Bool) : Latch :=
  { l with w := (upto 32).map fun i => (bits wcol (16 * i + 7) (16 * i), bits wcol (16 * i + 15) (16 * i + 8)),
           a := (upto 32).map fun j => (bits arow (8 * j + 7) (8 * j), bits arow (256 + 8 * j + 7) (256 + 8 * j)),
           half := 0, poison }

/-- The activation rows of array a, read from the scratchpad: value of up to two rows, poison. -/
def State.readAct (s : State) (c : Nat) (x : MatSlot) (a : Nat) : State × Nat × Bool :=
  let r := s.readRow c (x.row a)
  if x.fmt == 0xE && x.axis == 0 then
    let r2 := r.1.readRow c (x.row a + 1)
    (r2.1, r.2.1.toNat + r2.2.1.toNat <<< 512, r.2.2 || r2.2.2)
  else (r.1, r.2.1.toNat, r.2.2)

/-- Retirement of bank n of array a starts: the open block closes, a queue entry is reserved (R92). -/
def Core.retire (k : Core) (a n : Nat) : Core :=
  let b := k.bank a n
  let l := k.latch a
  let k := if b.phase != 0 then
      (k.setBank a n (b.close (32 - b.phase))).setLatch a { l with half := 1 - l.half }
    else k
  let b := k.bank a n
  let e := k.mx.tail
  let k := k.setBank a n { b with st := 2 }
  let mx := { k.mx with ftq := aput k.mx.ftq e { aget FtqEntry.init k.mx.ftq e with st := 1, int := b.int, poison := b.poison },
                        tail := (e + 1) % 4, retq := k.mx.retq ++ [⟨2 * a + n, e⟩] }
  Core.bump { k with mx } rRet

/-- What an MMA reads for one array: weights, activations and scales, with their poison. -/
structure MmaIn where
  w : List FVal
  wp : Bool
  wcol : BitVec 512
  wcp : Bool
  act : Nat
  ap : Bool
  arow : BitVec 512
  arp : Bool
  mask : Word
deriving DecidableEq, Repr

/-- The latch of an array after SRD, if the product has it. -/
def mmaLatch (x : MatSlot) (y : MmaIn) (l : Latch) : Latch :=
  if x.srd then latchScales l y.wcol.toNat y.arow.toNat (y.arp || y.wcp) else l

/-- The bank and the latch of one array after the product. -/
def mmaSum (accm : Bool) (x : MatSlot) (t : Tag) (y : MmaIn) (b : Bank) (l : Latch) : Bank × Latch :=
  let rk := effRank t x.axis
  let b := if x.init then b.start t.integer else b
  let p : Prd := ⟨rk, y.w, activation t rk y.act, y.mask⟩
  if accm then (b.fv1 p, mmaLatch x y l) else addProduct t rk x.fmt (x.axis == 1) p b (mmaLatch x y l)

/-- The core after one array's part of an MMA: visible 10 cycles later (R82), counted (R99). -/
def Core.mmaInto (k : Core) (x : MatSlot) (t : Tag) (y : MmaIn) (a : Nat) : Core :=
  let r := mmaSum k.accm x t y (k.bank a x.bank) (k.latch a)
  let bad := r.1.poison || y.wp || y.ap || (x.srd && (y.arp || y.wcp))
  let k := ((k.setBank a x.bank { r.1 with poison := bad, vis := k.is.clk + 10 }).setLatch a
    { r.2 with last := some k.is.clk }).bump (rProd a)
  if x.glz then k.bump (rGlz a) else k

/-- The scale row of the activations, one row before the element rows (R78, R79). -/
def State.readScales (s : State) (c : Nat) (x : MatSlot) (a : Nat) : State × BitVec 512 × Bool :=
  if x.srd then s.readRow c (x.row a - 1) else (s, 0#512, false)

/-- One array's part of an MMA; mask is the column mask of a glaze pass. -/
def State.mmaArray (s : State) (c : Nat) (x : MatSlot) (t : Tag) (w : List FVal) (wp : Bool) (wcol : BitVec 512)
    (wcp : Bool) (mask : Word) (a : Nat) : State :=
  let act := s.readAct c x a
  let sc := act.1.readScales c x a
  sc.1.modCore c fun k => k.mmaInto x t ⟨w, wp, wcol, wcp, act.2.1, act.2.2, sc.2.1, sc.2.2, mask⟩ a

/-- MMA (R82): k0 is the core as the bundle's operands read it. -/
def State.mma (s : State) (c : Nat) (k0 : Core) (x : MatSlot) : State :=
  match tagOf x.fmt with
  | none => s
  | some t =>
    if x.en == 0 then s
    else
      let wr := s.weightSide c x t
      let sr := if x.srd then wr.1.readCol c (x.wsa / 4 - 1) else (wr.1, 0#512, false)
      let mask (a : Nat) : Word := if x.axis == 0 && x.glz && x.sel != 0 then k0.s (x.sel + a) else ~~~0#32
      let s := (arrays x.en).foldl
        (fun s a => s.mmaArray c x t wr.2.1 wr.2.2 sr.2.1 sr.2.2 (mask a) a) sr.1
      if x.last then (arrays x.en).foldl (fun s a => s.modCore c fun k => k.retire a x.bank) s else s

/-- MRET (R92): banks in ACCUM start retirement. -/
def State.mret (s : State) (c : Nat) (x : MatSlot) : State :=
  (arrays x.en).foldl (fun s a => s.modCore c fun k => if (k.bank a x.bank).st == 1 then k.retire a x.bank else k) s

/-- A bank that holds no tile: IDLE, with the tag and number of the blocks that it closed (Table 04-8). -/
def Bank.idle (b : Bank) : Bank := { Bank.init with lastFmt := b.lastFmt, blocks := b.blocks, vis := b.vis }

/-- MDROP (Table 04-3). On an IDLE bank, which Table 04-5 does not let accept it and for which Table 04-7 has no
violation, it changes nothing that a reader sees (DESIGN CHOICE, log entry 102). -/
def State.mdrop (s : State) (c : Nat) (x : MatSlot) : State :=
  (arrays x.en).foldl (fun s a => s.modCore c fun k => k.setBank a x.bank (k.bank a x.bank).idle) s

/-- WLD (R84): row A of array a to column WSA / 4 + a, visible seven cycles later. -/
def State.wld (s : State) (c : Nat) (x : MatSlot) : State :=
  (arrays x.en).foldl (fun s a =>
    let r := s.readRow c (x.row a)
    r.1.modCore c fun k =>
      (k.later (.wcol (x.wsa / 4 + a) r.2.1 r.2.2) true k.is.clk 7 6).bump rWsLd) s

/-- The matrix slot of an issuing bundle. -/
def State.runMat (s : State) (c : Nat) (k0 : Core) (x : MatSlot) : State :=
  match x.mop with
  | 1 => s.mma c k0 x
  | 2 => s.mret c x
  | 3 => s.mdrop c x
  | 4 => s.wld c x
  | _ => s

end Sys2Proof.Machine
end

