-- ==== Sys2Proof/Machine/ScalarOps.lean ====
section
/-!
DEFINITION. The scalar unit (R54 to R59) and the start of local-memory operations (R164 to R168).
-/

namespace Sys2Proof.Machine

/-- f_plan of a frequency step in MHz (Table 15-2). -/
def fplan (step : Nat) : Nat :=
  match step with
  | 0 => 2050
  | 1 => 1850
  | 2 => 1650
  | _ => 1450

/-- RDSYS (Table 03-7): the value, with the latches of indexes 0 and 2. -/
def State.rdsys (s : State) (c : Nat) (k : Core) (i : Nat) : Word × Scalar :=
  let lo (n : Nat) : Word := BitVec.ofNat 32 n
  match i with
  | 0 => (lo s.scr.now, { k.sc with tickHi := lo (s.scr.now >>> 32) })
  | 1 => (k.sc.tickHi, k.sc)
  | 2 => (lo k.pnl.step, { k.sc with stepHi := lo (bits k.pnl.step 47 32) })
  | 3 => (k.sc.stepHi, k.sc)
  | 4 => (lo c, k.sc)
  | 5 => (lo s.fab.coord, k.sc)
  | 6 => (k.lc 0, k.sc)
  | 7 => (k.lc 1, k.sc)
  | 8 => (k.lc 2, k.sc)
  | 9 => (k.lc 3, k.sc)
  | 10 => (lo k.pnl.index, k.sc)
  | _ => (lo (fplan (s.bay (bayOf c)).step), k.sc)

/-- A word placed in its row for a partial write. -/
def wordBytes (a : Nat) (v : Word) : List (Option Byte) :=
  List.replicate (a % 64) none ++ (toBytes 4 v.toNat).map some ++ List.replicate (60 - a % 64) none

/-- SLD (R56, R160): the word at a, visible seven cycles later; a poisoned row is a fault. -/
def State.sld (s : State) (c rd a : Nat) : State :=
  let r := s.readRow c (a / 64)
  if r.2.2 then r.1.poisonFault c (if (s.core c).headerRow (a / 64) then 6 else 1) 1 (a / 64 * 64)
  else
    let w := BitVec.ofNat 32 (bits r.2.1.toNat (8 * (a % 64) + 31) (8 * (a % 64)))
    r.1.modCore c fun k => k.later (.sreg rd w) true k.is.clk 7 6

/-- SST (R56, R157): the word at a, visible to reads from the third cycle on. -/
def Core.sst (k : Core) (a : Nat) (v : Word) : Core :=
  k.later (.row 4 (a / 64) (wordBytes a v) false) true k.is.clk 3 2

/-- The scalar slot of an issuing bundle at index i; k0 is the core as its operands read it. Branches are decided in
branchTo. -/
def State.runScl (s : State) (c : Nat) (k0 : Core) (i : Nat) (x : SclSlot) : State :=
  let a := k0.s x.rs1
  let b := k0.s x.rs2
  let n := x.rd % 4
  if x.op == 0 then s
  else if x.op == 0x18 then s.sld c x.rd (sclAddr k0 x)
  else if x.op == 0x19 then s.modCore c fun k => k.sst (sclAddr k0 x) b
  else if x.op == 0x26 then s.modCore c fun k => k.setS x.rd (BitVec.ofNat 32 (i + 2))
  else if x.op == 0x28 then s.modCore c fun k => k.setLc n (a + BitVec.ofInt 32 (sext 17 x.imm))
  else if x.op == 0x29 then
    s.modCore c fun k => k.setLc n (if 1 < (k0.lc n).toNat then k0.lc n - 1#32 else 0#32)
  else if x.op == 0x30 then
    let r := s.rdsys c k0 x.imm
    s.modCore c fun k => ({ k with sc := { k.sc with tickHi := r.2.tickHi, stepHi := r.2.stepHi } } : Core).setS x.rd r.1
  else if isBranch x.op then s
  else s.modCore c fun k => k.setS x.rd (alu x.op a b x.imm)

/-- Where issue goes on after the delay bundle of a branch at index i (R58). -/
def branchTo (k0 : Core) (i : Nat) (x : SclSlot) : Nat :=
  let go :=
    if x.op == 0x29 then decide (1 < (k0.lc (x.rd % 4)).toNat) else taken x.op (k0.s x.rs1) (k0.s x.rs2)
  if go then (if x.op == 0x27 then bits (k0.s x.rs1).toNat 10 0 else bits x.imm 10 0) else i + 2

/-- The local-memory slot of an issuing bundle (R164, R165). -/
def State.runLms (s : State) (c : Nat) (k0 : Core) (chk : Bool) (x : LmsSlot) : State :=
  if x.lop == 0 then s
  else
    let d := (k0.s x.sd).toNat
    let cyc := s.cyc c
    s.modCore c fun k =>
      let op : LmOp :=
        { lop := x.lop, row := bits d 13 0, src := (k0.s x.ss).toNat, len := x.rows, dstr := x.dstr, sstr := x.sstr,
          sem := bits d 22 16, post := bit d 23, chk, fv2 := k.fv2, serial := k.is.serial, issued := cyc,
          started := false, rd := 0, wr := 0, buf := [], visAt := none, posted := false, heldSince := none }
      { k with lm := k.lm ++ [op], is := { k.is with serial := k.is.serial + 1 } }

end Sys2Proof.Machine
end

