-- ==== Sys2Proof/Machine/VectorOps.lean ====
section
/-!
DEFINITION. The vector engine (R134 to R152): operands, lane operations, reductions, loads, stores, draws.
-/

namespace Sys2Proof.Machine

/-- The group that a pop reads: lane l is accumulator (2 n + l div 32, l mod 32) (R137). -/
def FtqEntry.groupLanes (e : FtqEntry) : List Word := (e.data.drop (64 * e.group)).take 64

/-- The head entry after a pop: FREE after group 15 (R138). -/
def Core.popHead (k : Core) (all : Bool) : Core :=
  let e := k.ftqHead
  if all || e.group ≥ 15 then
    { k with mx := { k.mx with ftq := aput k.mx.ftq k.mx.head { FtqEntry.init with data := e.data },
                               head := (k.mx.head + 1) % 4 } }
  else { k with mx := { k.mx with ftq := aput k.mx.ftq k.mx.head { e with group := e.group + 1 } } }

/-- Pair broadcast of a register under group n (Table 06-3). -/
def pairBcast (v : List Word) (n : Nat) : List Word :=
  (upto 64).map fun l => v.getD (2 * n + l / 32) 0#32

/-- Operands of an element-wise operation as they stand at issue: A, B, C, poison of the sources. -/
structure VArgs where
  a : List Word
  b : List Word
  c : List Word
  poison : Bool
deriving DecidableEq, Repr

def vargs (k : Core) (x : VecSlot) (f : VForm) : VArgs :=
  let n := k.ftqHead.group
  let a := if x.fsrc then k.ftqHead.groupLanes else k.v x.va
  let b0 := if f.hasB && bit x.vaux 3 then List.replicate 64 (k.s x.vb)
    else if f.hasB && bit x.vaux 1 then pairBcast (k.v x.vb) n
    else k.v x.vb
  let b := if f == .am && bit x.vaux 4 then b0.drop 32 ++ b0.take 32 else b0
  let c := if f == .e3 && bit x.vaux 2 then pairBcast (k.v x.vc) n else k.v x.vc
  let p := (vecReads x).any k.vPoisoned || (maskReads x).any k.mPoisoned || (x.fsrc && k.ftqHead.poison)
  ⟨a, b, c, p⟩

/-- Block exponent X of a lane (R147). -/
def mxExp (emax : Int) (a : Word) : Word :=
  match dec32 a with
  | .nan => 128#32
  | .inf _ => 127#32
  | .fin _ m e => BitVec.ofInt 32 (if m == 0 then -127 else max (-127) (min 127 (floorLog2 m e - emax)))

/-- One lane of a class E or F operation with a V destination (Table 06-2). -/
def laneOp (op : Nat) (a b c : Word) : Word :=
  let sh := b.toNat % 32
  match op with
  | 0x01 => add32 a b
  | 0x02 => sub32 a b
  | 0x03 => mul32 a b
  | 0x04 => fma32 a b c
  | 0x05 => fnma32 a b c
  | 0x06 => fmin32 a b
  | 0x07 => fmax32 a b
  | 0x08 => abs32 a
  | 0x09 => neg32 a
  | 0x0A => fmax32 (finAbs32 a) (finAbs32 b)
  | 0x0B => cvtIF a
  | 0x0F => a
  | 0x18 => a + b
  | 0x19 => a - b
  | 0x1A => a * b
  | 0x1B => a &&& b
  | 0x1C => a ||| b
  | 0x1D => a ^^^ b
  | 0x1E => a <<< sh
  | 0x1F => a >>> sh
  | 0x20 => a.sshiftRight sh
  | 0x21 => if a.slt b then a else b
  | 0x22 => if a.slt b then b else a
  | 0x30 => exp2_32 a
  | 0x31 => log2_32 a
  | 0x32 => rsqrt32 a
  | 0x33 => recip32 a
  | _ => 0#32

/-- One lane of a compare (R141). -/
def laneCmp (op : Nat) (a b : Word) : Bool :=
  match op with
  | 0x10 => flt (dec32 a) (dec32 b)
  | 0x11 => flt (dec32 a) (dec32 b) || feq (dec32 a) (dec32 b)
  | 0x12 => feq (dec32 a) (dec32 b)
  | _ => a.slt b

/-- A mask from its bits, lane 0 first. -/
def maskOf (l : List Bool) : DWord := BitVec.ofNat 64 (join 1 (l.map b2n))

/-- Lanes that act (R134). -/
def actMask (k : Core) (x : VecSlot) : DWord := if x.men then k.m x.msk else ~~~0#64

/-- Lanes as a partial write under the mask. -/
def maskedLanes (act : DWord) (l : List Word) : List (Option Word) :=
  (upto 64).map fun i => if act.getLsbD i then some (l.getD i 0#32) else none

/-- Three lists, lane by lane. -/
def zip3 (f : Word → Word → Word → Word) (a b c : List Word) : List Word :=
  (upto 64).map fun i => f (a.getD i 0#32) (b.getD i 0#32) (c.getD i 0#32)

/-- One list, lane by lane. -/
def lanes1 (f : Word → Word) (a : List Word) : List Word := (upto 64).map fun i => f (a.getD i 0#32)

/-- KCG inputs of a core (R130 to R132): seed, PNL_STEP seen by the bundle, job core number. -/
def Core.draw (k : Core) (c step : Nat) (x : VecSlot) (l : Nat) : Word :=
  kcg ((upto 4).map fun n => BitVec.ofNat 32 (k.reg (rKcgSeed n))) step
    (bits (k.reg rKcgRank) 11 0 * 1792 + c) (bits (k.s x.vc).toNat 15 0) (k.s (x.vc + 1) + BitVec.ofNat 32 l)

/-- Element formats of loads and stores that convert by value. -/
def fltFmt : Nat → Option FFmt
  | 0x2 => some fmtBF16
  | 0x3 => some fmtFP16
  | 0x4 => some fmtE4M3
  | 0x5 => some fmtE5M2
  | 0x8 => some fmtE2M3
  | 0x9 => some fmtE3M2
  | 0xA => some fmtE2M1
  | _ => none

/-- One element of a row loaded into a lane (R145). -/
def loadElem (fmt x : Nat) : Word :=
  match fltFmt fmt with
  | some f => rne32 (f.decode x)
  | none =>
    if fmt == 6 then BitVec.ofInt 32 (sext 8 x)
    else if fmt == 0xB then BitVec.ofInt 32 (sext 4 x)
    else if fmt == 7 then rne32 (Elem.mxint8.decode x)
    else if fmt == 0xC then rne32 (Elem.t2.decode x)
    else BitVec.ofNat 32 x

def rndOf : Nat → Rnd
  | 1 => .rtz
  | 2 => .sr
  | _ => .rne

/-- A value rounded to an element of a store (R111 to R113); none where the value is NaN and the format has none
(log entry 10). -/
def storeVal (fmt : Nat) (md : Rnd) (sat : Bool) (r : Nat) (v : FVal) : Option Nat :=
  match fltFmt fmt with
  | some f => if v.isNan && f.special == .none then none else some (f.encode md sat r v)
  | none =>
    if fmt == 7 then
      if v.isNan then none
      else some (wrapInt 8 (convInt md r (-127) 127 (fscale 6 v)))
    else if v.isNan then none
    else
      let z := convInt md r (-1) 1 v
      some (if z < 0 then 2 else z.toNat)

/-- One lane as an element of a store (R146, R147). The free value of a NaN lane is one that the format writes: no T2 code
0b11, no MXINT8 code 0x80 (R112). -/
def storeElem (fmt : Nat) (md : Rnd) (sat : Bool) (r : Nat) (x : Option Word) (a : Word) : Nat :=
  let nan := (Config.nanElement fmt a.toNat).toNat
  let any : Nat := if fmt == 0xC then nan % 3 else if fmt == 7 && nan == 0x80 then 0 else nan
  let fv (v : FVal) : Nat := (storeVal fmt md sat r v).getD any
  if fmt ≤ 1 then a.toNat
  else if fmt == 6 then wrapInt 8 (max (-128) (min 127 a.toInt))
  else if fmt == 0xB then wrapInt 4 (max (-8) (min 7 a.toInt))
  else
    match x with
    | none => fv (dec32 a)
    | some e => if e == 128#32 then 0 else fv (fscale (-e.toInt) (dec32 a))

/-- Bits that a store writes in its row: pairs of value and write mask, one bit per row bit. -/
def storeBits (w : Nat) (els : List (Nat × Nat)) : Nat × Nat :=
  els.foldl (fun acc e =>
    (acc.1 ||| (e.2 % 2 ^ w) <<< (w * e.1), acc.2 ||| (2 ^ w - 1) <<< (w * e.1))) (0, 0)

/-- The bytes of a row that a store writes whole. -/
def storeBytes (v m : Nat) : List (Option Byte) :=
  (upto 64).map fun i =>
    if bits m (8 * i + 7) (8 * i) == 255 then some (BitVec.ofNat 8 (bits v (8 * i + 7) (8 * i))) else none

/-- The bytes of which a store writes some bits only, as another element in them is masked off (R134): byte, mask,
value. -/
def storePart (v m : Nat) : List (Nat × Byte × Byte) :=
  (upto 64).filterMap fun i =>
    let mb := bits m (8 * i + 7) (8 * i)
    if mb == 0 || mb == 255 then none
    else some (i, BitVec.ofNat 8 mb, BitVec.ofNat 8 (bits v (8 * i + 7) (8 * i)))

/-- A result for V register r: visible after lat cycles, lat2 on FV2 (Tables 06-6, 09-1). -/
def Core.toV (k : Core) (r : Nat) (lanes : List (Option Word)) (p whole : Bool) (lat lat2 : Nat) : Core :=
  k.later (.vreg r lanes p whole) true k.is.clk lat lat2

/-- A store's row write (R146): presented two cycles after issue, visible five cycles after it. -/
def Core.storeRow (k : Core) (row : Nat) (bytes : List (Option Byte)) (part : List (Nat × Byte × Byte)) (p : Bool) :
    Core :=
  let k := if part.isEmpty then k else k.later (.rowPart 1 row part p) true k.is.clk 5 4
  k.later (.row 1 row bytes p) true k.is.clk 5 4

/-- Reduction over the lanes that act (R148). -/
def reduceLanes (op : Nat) (act : DWord) (a : List Word) (lo n : Nat) : Word :=
  let keep (d : Word) : List Word := (upto n).map fun i => if act.getLsbD (lo + i) then a.getD (lo + i) 0#32 else d
  match op with
  | 0x40 => treeReduce add32 6 (keep 0#32)
  | 0x41 => treeReduce fmax32 6 (keep 0xFF800000#32)
  | 0x42 => treeReduce fmin32 6 (keep 0x7F800000#32)
  | _ => treeReduce (· + ·) 6 (keep 0#32)

/-- Two S registers of a reduction with DS, or lanes 0 and 32. -/
def Core.reduce (k : Core) (x : VecSlot) (y : VArgs) (act : DWord) : Core :=
  let seg := bit x.vaux 2
  let r0 := reduceLanes x.vop act y.a 0 (if seg then 32 else 64)
  let r1 := reduceLanes x.vop act y.a 32 32
  if bit x.vaux 1 then
    let k := k.toS x.vd r0 11 9
    if seg then k.toS (x.vd + 1) r1 11 9 else k
  else
    k.toV x.vd ((upto 64).map fun i => some (if i == 0 then r0 else if seg && i == 32 then r1 else 0#32)) y.poison
      true 10 8

/-- The operation of an issuing vector slot on the core; k0 is the core as its operands read it, step the PNL_STEP
that the bundle sees. Loads are handled by the caller. -/
def Core.vecOp (k k0 : Core) (c step : Nat) (x : VecSlot) (f : VForm) : Core :=
  let y := vargs k0 x f
  let act := actMask k0 x
  let whole := !x.men
  let sameV (l : List Word) (lat lat2 : Nat) : Core := k.toV x.vd (maskedLanes act l) y.poison whole lat lat2
  let toM (v : DWord) : Core := k.later (.mreg (x.vd % 8) act v y.poison whole) true k.is.clk 4 3
  match f with
  | .e1 =>
    if x.vop == 0x0D then
      (k.toV x.vd (maskedLanes act (lanes1 splitHi y.a)) y.poison whole 4 3).toV (x.vd + 1)
        (maskedLanes act (lanes1 splitLo y.a)) y.poison whole 4 3
    else sameV (zip3 (laneOp x.vop) y.a y.b y.c) 4 3
  | .e2 | .e3 | .am => sameV (zip3 (laneOp x.vop) y.a y.b y.c) 4 3
  | .cv => sameV (lanes1 (cvtFI (rndOf (bits x.vaux 5 4))) y.a) 4 3
  | .sc => sameV (lanes1 (mxExp (((vfmt x.fmt).bind fun z => z.emax).getD 0)) y.a) 4 3
  | .cmp => toM (maskOf ((upto 64).map fun i => laneCmp x.vop (y.a.getD i 0#32) (y.b.getD i 0#32)))
  | .sel =>
    let m := k0.m (x.vc % 8)
    sameV ((upto 64).map fun i => if m.getLsbD i then y.a.getD i 0#32 else y.b.getD i 0#32) 4 3
  | .m2 =>
    let a := k0.m (x.va % 8)
    let b := k0.m (x.vb % 8)
    toM (if x.vop == 0x28 then a &&& b else if x.vop == 0x29 then a ||| b else a ^^^ b)
  | .m1 => toM (~~~(k0.m (x.va % 8)))
  | .mld => toM (BitVec.ofNat 64 ((k0.s x.va).toNat + (k0.s x.vb).toNat <<< 32))
  | .sf =>
    let k1 := { k with ve := { k.ve with lastF := some k.is.clk } }
    (k1.toV x.vd (maskedLanes act (lanes1 (fun a => laneOp x.vop a 0#32 0#32) y.a)) y.poison whole 12 10).bump rVeSf
  | .rand => sameV ((upto 64).map (k0.draw c step x)) 4 3
  | .drop => sameV ((upto 64).map fun i => if (k0.draw c step x i).ult (k0.s x.vb) then y.a.getD i 0#32 else 0#32) 4 3
  | .red => k.reduce x y act
  | .cnt => k.toS x.vd (BitVec.ofNat 32 ((upto 64).countP fun i => (k0.m (x.va % 8)).getLsbD i)) 3 3
  | .st | .stq =>
    let ls := (laneMap x.fmt (bits x.vaux 5 4) (bit x.vaux 3)).getD []
    let md := rndOf (bits x.vaux 1 0)
    let w := ((vfmt x.fmt).map VFmt.w).getD 32
    let a := k0.v x.va
    let e := k0.v x.vb
    let els := ls.filterMap fun p =>
      if act.getLsbD p.1 then
        some (p.2, storeElem x.fmt md (bit x.vaux 2) (if md == .sr then (k0.draw c step x p.1).toNat else 0)
          (if f == .stq then some (e.getD p.1 0#32) else none) (a.getD p.1 0#32))
      else none
    let vm := storeBits w els
    k.storeRow (vecRow k0 x) (storeBytes vm.1 vm.2) (storePart vm.1 vm.2) y.poison
  | .stsc =>
    let h := bits x.vaux 4 4
    let a := k0.v x.va
    let bytes := (upto 64).map fun i =>
      if i / 32 == h && act.getLsbD (i % 32) then
        let v := a.getD (i % 32) 0#32
        some (if v == 128#32 then 255#8 else BitVec.ofInt 8 (v.toInt + 127))
      else none
    k.storeRow (vecRow k0 x) bytes [] y.poison
  | .fd | .ld | .ldsc => k

/-- A load (R145): rows read at issue, lanes visible seven cycles later. -/
def State.vecLoad (s : State) (c : Nat) (k0 : Core) (x : VecSlot) (f : VForm) : State :=
  let r := s.readRow c (vecRow k0 x)
  let row := r.2.1.toNat
  let act := actMask k0 x
  let g := bits x.vaux 5 4
  let lanes : List (Option Word) :=
    if f == .ld then
      let ls := (laneMap x.fmt g (bit x.vaux 3)).getD []
      let w := ((vfmt x.fmt).map VFmt.w).getD 32
      (upto 64).map fun l =>
        match ls.find? (fun p => p.1 == l) with
        | some p => if act.getLsbD l then some (loadElem x.fmt (bits row (w * p.2 + w - 1) (w * p.2))) else none
        | none => none
    else
      (upto 64).map fun l =>
        let b := bits row (8 * (32 * g + l % 32) + 7) (8 * (32 * g + l % 32))
        if act.getLsbD l then some (if b == 255 then nan32 else rne32 (.fin false 1 ((b : Int) - 127))) else none
  let p := r.2.2 || (x.men && k0.mPoisoned x.msk)
  r.1.modCore c fun k => k.toV x.vd lanes p (!x.men && lanes.all Option.isSome) 7 6

/-- A vector result bound for an S register comes from a poisoned source (R152, R371). -/
def poisonedReduce (k0 : Core) (x : VecSlot) (f : VForm) : Bool :=
  ((f == .red && bit x.vaux 1) || f == .cnt) && (vargs k0 x f).poison

/-- The vector slot of an issuing bundle. -/
def State.runVec (s : State) (c : Nat) (k0 : Core) (i : Nat) (x : VecSlot) : State :=
  match vform x.vop with
  | none => s
  | some f =>
    let s := s.modCore c fun k => k.bump rVeIssue
    let s :=
      if f.isLoad then s.vecLoad c k0 x f
      else if poisonedReduce k0 x f then s.poisonFault c 2 3 i
      else s.modCore c fun k => k.vecOp k0 c k0.pnl.step x f
    if x.pops then
      s.modCore c fun k => let k := k.popHead (x.vop == 0x50); if x.fsrc then k.bump rVePop else k
    else s

end Sys2Proof.Machine
end

