-- ==== Sys2Proof/Machine/Issue.lean ====
section
/-!
DEFINITION. The issue of a bundle (R46 to R51, R58 to R72): interlocks in the order of Table 03-15, violations found
at issue (R283, R284), bank ports (R63, R64), and the operations of all slots on the operands as they stand at issue.
-/

namespace Sys2Proof.Machine

/-- S registers that a bundle names (R62). -/
def bundleRegs (b : Bundle) : List Nat :=
  sclRegs b.scl ++ matRegs b.mat ++ vecRegs b.vec ++ lmsRegs b.lms ++ ctlRegs b.ctl ++ maskRegs b.masks

/-- A consumer in the bundle falls inside the FV2 latency gap (R212). -/
def fv2Held (k : Core) (b : Bundle) (cyc : Nat) : Bool :=
  k.fv2 && k.inflight.any fun d =>
    decide (d.gap ≤ (if d.pipe then k.is.clk else cyc)) &&
      gapRead b ((readRows k b).map (·.1)) (bundleRegs b) d

/-- The limited causes 1 to 4 that hold the bundle in this cycle (R61, R263, R281). -/
def limitedCauses (k : Core) (cyc : Nat) (b : Bundle) : List Nat :=
  (if (checkedRows k b).any fun r => !k.landed r then [1] else []) ++ (if bankHeld k b.mat then [2] else []) ++
    (if ftqHeld k b.vec then [3] else []) ++ (if ctlCause k cyc b == some 4 then [4] else [])

/-- The lowest of the causes 0 to 4 that holds the bundle (Table 03-15). -/
def earlyCause (k : Core) (cyc : Nat) (b : Bundle) : Option Nat :=
  if (bundleRegs b).any k.sWaits then some 0 else (limitedCauses k cyc b).head?

/-- The bundle carries a semaphore wait that breaks no rule of its own. -/
def wantsWait (k : Core) (coord c cyc : Nat) (b : Bundle) (i : Nat) : Bool :=
  b.ctl.isWait && (ctlViols k coord c cyc b i).isEmpty

/-- The control slot sends to a place outside the core's bay, so that what it sends crosses into the spine (R357). -/
def leavesBay (k : Core) (coord c : Nat) (x : CtlSlot) : Bool :=
  let other (y d : Nat) : Bool := y != coord || bayOf d != bayOf c
  match x.cop with
  | 0x10 => other coord (rtCore (k.rtCfg x.idx))
  | 0x11 => match (k.queue x.idx).src with
    | some r => other coord r.1
    | none => false
  | 0x14 => other (rtCoord (k.rtCfg x.idx)) (rtCore (k.rtCfg x.idx))
  | 0x15 => other (mbCoord (k.mbxCfg x.idx)) (mbCore (k.mbxCfg x.idx))
  | _ =>
    x.isSem &&
      let a := semAddr k coord c x
      match semPlace (gaOff a) with
      | some p => gaCoord a != coord || if p < 1792 then bayOf p != bayOf c else p - 1792 != bayOf c
      | none => true

/-- The cause that holds the bundle in this cycle (R61, R66, R72, R212, R357). -/
def holdCause (k : Core) (coord c cyc : Nat) (b : Bundle) (i : Nat) : Option Nat :=
  match earlyCause k cyc b with
  | some q => some q
  | none =>
    if wantsWait k coord c cyc b i && !released k.is.wait && !(bundleRegs b).any k.sPending then some 5
    else if !k.is.granted then some 6
    else if ctlCause k cyc b == some 7 || fv2Held k b cyc || (k.is.pressed && leavesBay k coord c b.ctl) then some 7
    else none

/-- A stalled cycle: one cause q counts (R72), and an FV2 hold counts as such (R213). Each limited cause of qs that
holds goes on from the tick at which it began, whatever else holds (R263, R281, R283). -/
def Core.stall (k : Core) (q now : Nat) (fv2 : Bool) (qs : List Nat) : Core :=
  let k := k.bump (rStall q)
  let k := if fv2 then k.bump rFv2Hold else k
  { k with is := { k.is with tried := true, holds := qs.map fun x => (x, aget now k.is.holds x) } }

/-- The control slot's semaphore wait leaves for its home, behind the sync port (R257, R262). -/
def State.sendWait (s : State) (c : Nat) (x : CtlSlot) : State :=
  let k := s.core c
  if k.is.wait.isSome || !k.sync.isEmpty then s
  else
    let a := semAddr k s.fab.coord c x
    let r := s.beginWait c 0 a (semCount k x) (x.cop == 0x19)
    if r.2 then r.1 else r.1.violate c 0xB3 5 a rQViol

/-- Every violation of the bundle (R284: lowest slot first). -/
def bundleViols (k : Core) (coord c cyc : Nat) (b : Bundle) (i : Nat) : List Viol :=
  headViols k b i ++ matViols k b.mat i ++ vecViols k b.vec i ++ lmsViols k b.lms i ++ ctlViols k coord c cyc b i

/-- The violations of one cycle are taken in order: the first is logged, the others set OVF. Row 3 of Table 10-6 stops
the engine that the SPLD names (R225, R250). -/
def State.takeViols (s : State) (c : Nat) (b : Bundle) (vs : List Viol) : State :=
  vs.foldl (fun s v =>
    (if v.code == 0xA3 then s.stopEngine c b.ctl.idx else s).violate c v.code v.slot v.addr v.cnt) s

/-! ### Bank ports (R63, R64) -/

/-- Requests of the bundle in rank order: write port, row, rank. -/
def bundleReqs (k : Core) (b : Bundle) : List (Bool × Nat × Nat) :=
  (if b.scl.op == 0x19 then [(true, sclAddr k b.scl / 64, 4)] else []) ++
    (matRows b.mat).map (fun r => (false, r.1, r.2)) ++ (vecRows k b.vec).map (fun r => (false, r.1, r.2)) ++
    (if b.scl.op == 0x18 then [(false, sclAddr k b.scl / 64, 10)] else [])

/-- Ports of one attempt: the requests that are served and those that lose. -/
structure PortTry where
  won : List (Bool × Nat × Nat)
  lost : List (Bool × Nat × Nat)
deriving DecidableEq, Repr

/-- Rows that requesters of rank 9 read in this cycle (R63). -/
def Core.lmRdRows (k : Core) (cyc : Nat) : List Nat :=
  if !k.is.granted then []
  else
    (k.lmReadRow cyc).toList ++ (k.readerOrder.filterMap fun i => k.readers[i]?).filterMap (k.readerRow cyc)

/-- Every request that contends with the bundle's and is known in this cycle, in the order of R63: the landings of
rank 3, the bundle's own, and the reads of rank 9 before a scalar load. Whatever command comes first in the cycle, a
port goes to the first of them (R64). -/
def portOrder (k : Core) (b : Bundle) (cyc : Nat) : List (Bool × Nat × Nat) :=
  let own := (bundleReqs k b).filter fun r => !k.is.served.contains (r.2.2, r.2.1)
  (k.landWants.map fun x => (true, x.2, 3)) ++ (own.filter fun r => r.2.2 < 9) ++
    ((k.lmRdRows cyc).map fun row => (false, row, 9)) ++ own.filter fun r => !(r.2.2 < 9)

def tryPorts (k : Core) (b : Bundle) (cyc : Nat) : PortTry :=
  let all := portOrder k b cyc
  let own := (bundleReqs k b).filter fun r => !k.is.served.contains (r.2.2, r.2.1)
  let wins (r : Bool × Nat × Nat) : Bool := k.portRow r.1 (bankOf r.2.1) all == some r.2.1
  ⟨own.filter wins, own.filter fun r => !wins r⟩

/-- The ports that a bundle's winning requests use in this cycle. -/
def Core.takePorts (k : Core) (rs : List (Bool × Nat × Nat)) : Core :=
  { k with is := { k.is with ports := (rs.map fun r => (r.1, bankOf r.2.1, r.2.1, r.2.2)) ++ k.is.ports } }

/-- Two requests meet at one port. -/
def samePort (a b : Bool × Nat × Nat) : Bool := a.1 == b.1 && bankOf a.2.1 == bankOf b.2.1

/-- A vector store's row write that is presented in this cycle is served although the pipeline freezes: it commits
three bay cycles later. -/
def Core.serveStore (k : Core) (cyc row : Nat) : Core :=
  { k with inflight := k.inflight.map fun d =>
      match d.eff with
      | .row 1 r _ _ | .rowPart 1 r _ _ =>
        if r == row && d.pipe && d.due == k.is.clk + 3 then
          { d with pipe := false, due := cyc + 3, gap := cyc + 2 }
        else d
      | _ => d }

/-- A frozen cycle (R64): held requests count, the stall is OTHER. The pipeline's winner of a port at which another of
its requests lost is served and is not presented again, or the two would meet in every later cycle (log entry 12). A
port that another request of the pipeline won goes unused: it serves row nRows, which is none. -/
def Core.freeze (k : Core) (cyc : Nat) (t : PortTry) : Core :=
  let meets (r : Bool × Nat × Nat) : Bool := t.lost.any (samePort r)
  let stores := k.is.ports.filter fun p => p.1 && p.2.2.2 == 1
  let kept := stores.filter fun p => meets (true, p.2.2.1, 1)
  let k := kept.foldl (fun k p => k.serveStore cyc p.2.2.1) k
  let ports := k.is.ports.map fun p => if stores.contains p && !kept.contains p then (p.1, p.2.1, nRows, p.2.2.2) else p
  let mine := t.won.map fun r => (r.1, bankOf r.2.1, if meets r then r.2.1 else nRows, r.2.2)
  let k := (k.bumpBy rCollide t.lost.length).bump (rStall 7)
  { k with is := { k.is with frozen := true, tried := true, holds := [], ports := mine ++ ports,
                             served := k.is.served ++ (t.won.filter meets).map fun r => (r.2.2, r.2.1) } }

/-! ### Execution -/

/-- Where issue stands after the bundle at index i of bundle memory (R49, R50, R58). -/
def Core.advance (k k0 : Core) (b : Bundle) (i : Nat) : Core :=
  let br := isBranch b.scl.op
  { k with is := { k.is with
      next := if k0.is.delay then k0.is.target else i + 1,
      delay := br, target := branchTo k0 i b.scl,
      pcIndex := i, pcSrc := false, pcDelay := k0.is.delay,
      eligible := k.is.clk + 1 + (if b.mark then 0 else b.run) } }

/-- A bundle of the sequencer issued (R51). -/
def Core.advanceSeq (k : Core) : Core :=
  { k with is := { k.is with pcSrc := true, pcDelay := false, eligible := k.is.clk + 1 } }

/-- All slots of the bundle start on the registers as they stand before any effect of the bundle (R47). -/
def State.runSlots (s : State) (c : Nat) (b : Bundle) (i : Nat) : State :=
  let k0 := s.core c
  let s := s.runMat c k0 b.mat
  let s := s.runVec c k0 i b.vec
  let s := s.runScl c k0 i b.scl
  let s := match b.masks with
    | some (r, m0, m1) => s.modCore c fun k => (k.setS r (BitVec.ofNat 32 m0)).setS (r + 1) (BitVec.ofNat 32 m1)
    | none => s
  let s := s.runLms c k0 b.chkL b.lms
  s.runCtl c k0 b.ctl

/-- The bundle has issued in this cycle; its tokens count (R66). -/
def Core.issued (k : Core) (b : Bundle) : Core :=
  { k with is := { k.is with tried := true, holds := [], served := [], tok := k.is.tok + bundleTokens b } }

/-- The bundle issues: bundle memory when gen is false, the sequencer otherwise. -/
def State.runBundle (s : State) (c : Nat) (b : Bundle) (i : Nat) (gen : Bool) : State :=
  let k0 := s.core c
  let s := s.runSlots c b i
  let s := s.modCore c fun k => (if gen then k.advanceSeq else k.advance k0 b i).issued b
  if b.mark && !gen && !(s.core c).is.stopped then s.panelEnd c else s

/-- One attempt to issue a bundle (R61, R283): held, refused as a violation, frozen at a port, or issued. The flag
tells whether it issued. -/
def State.tryBundle (s : State) (c : Nat) (b : Bundle) (i : Nat) (gen : Bool) : State × Bool :=
  let k := s.core c
  let cyc := s.cyc c
  let coord := s.fab.coord
  match holdCause k coord c cyc b i with
  | some q =>
    let s := s.setCore c (k.stall q s.scr.now (fv2Held k b cyc) (limitedCauses k cyc b))
    (if q == 5 then s.sendWait c b.ctl else s, false)
  | none =>
    let vs := bundleViols (if gen then { k with is := { k.is with next := 0 } } else k) coord c cyc b i
    if !vs.isEmpty then
      ((s.takeViols c b vs).modCore c fun k => { k with is := { k.is with tried := true } }, false)
    else
      let t := tryPorts k b cyc
      if !t.lost.isEmpty then (s.setCore c (k.freeze cyc t), false)
      else ((s.setCore c (k.takePorts t.won)).runBundle c b i gen, true)

/-- The pipeline of the core may attempt an issue in this cycle. -/
def Core.mayIssue (k : Core) : Bool :=
  k.pnl.phase == 2 && !k.is.stopped && !k.is.tried && !k.is.frozen && decide (k.is.eligible ≤ k.is.clk)

/-- The bundle that bundle memory holds at the issue point. -/
def Core.atIssue (k : Core) : Bundle := k.bundle k.is.next

/-- A bundle row of the table: when the bundle at the issue point satisfies p, the bundle is attempted whole. Where
the core may not issue in this cycle, or the bundle is another one, nothing happens (log entry 5). -/
def State.issue (s : State) (c : Nat) (p : Bundle → Bool) : State :=
  let k := s.core c
  if s.ctl.st == stRunning && k.mayIssue && !k.stn.active && p k.atIssue then
    (s.tryBundle c k.atIssue k.bundleIndex false).1
  else s

def issueScl (c op : Nat) (s : State) : Res := onCore c s fun s => s.issue c fun b => b.scl.op == op
def issueMat (c op : Nat) (s : State) : Res := onCore c s fun s => s.issue c fun b => b.mat.mop == op
def issueVec (c op : Nat) (s : State) : Res := onCore c s fun s => s.issue c fun b => b.vec.vop == op
def issueLms (c op : Nat) (s : State) : Res := onCore c s fun s => s.issue c fun b => b.lms.lop == op
def issueCtl (c op : Nat) (s : State) : Res := onCore c s fun s => s.issue c fun b => b.ctl.cop == op

/-- A slot value that no table lists; the NOP row stands for an attempt on it too (log entry 5). -/
def unlisted (b : Bundle) : Bool :=
  (b.scl.op != 0 && (sclUses b.scl.op).isNone) || b.mat.mop > 4 || (b.vec.vop != 0 && (vform b.vec.vop).isNone) ||
    b.lms.lop > 3 || (b.ctl.cop != 0 && (ctlUses b.ctl.cop).isNone)

/-- Some slot of the bundle holds NOP (R48). -/
def someNop (b : Bundle) : Bool :=
  b.scl.op == 0 || b.mat.mop == 0 || b.vec.vop == 0 || b.lms.lop == 0 || b.ctl.cop == 0

end Sys2Proof.Machine
end

