-- ==== Sys2Proof/Machine/Stencils.lean ====
section
/-!
DEFINITION. Stencil descriptors (R181 to R185, R189 to R194): fields, iteration, checks, and the operations into which
a tile step and a group expand (R186, R187, R191 to R194, R199 to R205).
-/

namespace Sys2Proof.Machine

/-! ### Fields (Table 08-2) -/

def sdKind (d : Nat) : Nat := bits d 3 0
def sdFmt (d : Nat) : Nat := bits d 7 4
def sdAxis (d : Nat) : Nat := bits d 8 8
def sdEn (d : Nat) : Nat := bits d 10 9
def sdChkM (d : Nat) : Bool := bit d 11
def sdChkV (d : Nat) : Bool := bit d 12
def sdBank0 (d : Nat) : Nat := bits d 13 13
def sdChain (d : Nat) : Bool := bit d 14
def sdWait (d : Nat) : Bool := bit d 15
def sdPost (d : Nat) : Bool := bit d 16
def sdDsync (d : Nat) : Bool := bit d 17
def sdWaitH (d : Nat) : Nat := bits d 29 24
def sdPostH (d : Nat) : Nat := bits d 35 30
def sdCount (d : Nat) : Nat := bits d 51 36
def sdKblk (d : Nat) : Nat := bits d 79 64
def sdLeafb (d : Nat) : Nat := bits d 95 80
def sdWrows (d : Nat) : Nat := bits d 106 96
def sdWrld (d : Nat) : Nat := bits d 109 107
def sdWcstr (d : Nat) : Nat := bits d 121 112
/-- Handle of generator g: 0 W, 1 A, 2 O, 3 P; 4 is H_X. -/
def sdH (d g : Nat) : Nat := bits d (133 + 6 * g) (128 + 6 * g)
def sdTaps (d : Nat) : Nat := bits d 199 192
def sdGblk (d : Nat) : Nat := bits d 201 200
def sdGfmt (d : Nat) : Nat := bits d 205 202
def sdGcol (d : Nat) : Nat := bits d 215 206
def sdMsks (d : Nat) : Nat := bits d 220 216
/-- Level L, 1 to 6. -/
def sdCnt (d l : Nat) : Nat := bits d (239 + 32 * l) (224 + 32 * l)
def sdCreg (d l : Nat) : Nat := bits d (244 + 32 * l) (240 + 32 * l)
def sdBase (d g : Nat) : Int := sext 16 (bits d (463 + 112 * g) (448 + 112 * g))
def sdStride (d g l : Nat) : Int := sext 16 (bits d (463 + 112 * g + 16 * l) (448 + 112 * g + 16 * l))
def sdA1off (d : Nat) : Int := sext 16 (bits d 911 896)
def sdO1off (d : Nat) : Int := sext 16 (bits d 927 912)
def sdLstr (d : Nat) : Int := sext 16 (bits d 943 928)
def sdEnum (d : Nat) : Nat := bits d 1028 1024
def sdChainRow (d : Nat) : Nat := bits d 1101 1088
def sdUop (d j : Nat) : Nat := bits d (1375 + 96 * j) (1280 + 96 * j)

def uoVec (u : Nat) : VecSlot := vecOf (bits u 55 0)
/-- Index mode of field f: 0 VD, 1 VA, 2 VB, 3 VC. -/
def uoIx (u f : Nat) : Nat := bits u (57 + 2 * f) (56 + 2 * f)
def uoPart (u : Nat) : Nat := bits u 65 64
def uoAsel (u : Nat) : Nat := bits u 67 66
def uoGstep (u : Nat) : Nat := bits u 69 68
def uoGrow (u : Nat) : Nat := bits u 73 70

/-- Micro-ops of the chain. -/
def sdChainOps (d : Nat) : List Nat := (upto (min (sdEnum d) 16)).map (sdUop d)

def sdMatrix (d : Nat) : Bool := 1 ≤ sdKind d && sdKind d ≤ 3
def sdConv (d : Nat) : Bool := sdKind d == 2
def sdGather (d : Nat) : Bool := sdKind d == 3

/-- A reserved tag stands as a tag of rank 1 where the fields have not been checked. -/
def sdTag (d : Nat) : Tag := (tagOf (sdFmt d)).getD ⟨.flt fmtBF16, .flt fmtBF16, 1, false, false⟩

/-! ### Loops (R182, R183) -/

/-- Counts of the levels, level 1 first. -/
def Core.levels (k : Core) (d : Nat) : List Nat :=
  (upto 6).map fun j =>
    let r := sdCreg d (j + 1)
    max 1 (if r == 0 then sdCnt d (j + 1) else (k.s r).toNat)

/-- The iteration vector after it, and whether there is one. -/
def nextIt : List Nat → List Nat → List Nat × Bool
  | i :: is, c :: cs =>
    if i + 1 < c then ((i + 1) :: is, true)
    else
      let r := nextIt is cs
      (0 :: r.1, r.2)
  | is, _ => (is, false)

/-- Row of generator g at an iteration; base holds the rows at the first one. -/
def genRow (d : Nat) (base : List Int) (g : Nat) (it : List Nat) : Int :=
  (upto 6).foldl (fun r j => r + (it.getD j 0 : Int) * sdStride d g (j + 1)) (base.getD g 0)

/-- Row bases of the four generators (R183): ADDR[19:6], the row within the own scratchpad, plus BASE_X. -/
def Core.genBases (k : Core) (d : Nat) : List Int :=
  (upto 4).map fun g => (bits (k.htAddr (sdH d g)) 19 6 : Int) + sdBase d g

/-- Lowest and highest row of generator g over every iteration, as an offset from BASE_X. -/
def genSpan (d g : Nat) (cnt : List Nat) : Int × Int :=
  (upto 6).foldl (fun r j =>
    let z := ((cnt.getD j 1 : Int) - 1) * sdStride d g (j + 1)
    (r.1 + min 0 z, r.2 + max 0 z)) (0, 0)

/-! ### The layout of a tile (Table 08-6) -/

/-- Rows that one row of a token tile takes: 2 for the ternary tag. -/
def tagRho (fmt : Nat) : Nat := if fmt == 0xE then 2 else 1

/-- Columns and rows that nb blocks take. -/
def colSpan (t : Tag) (nb : Nat) : Nat :=
  if t.scaled then (nb / 2) * (1 + 64 / t.k) + (nb % 2) * (1 + 32 / t.k) else nb * (32 / t.k)

def actSpan (t : Tag) (fmt nb : Nat) : Nat :=
  let r := tagRho fmt
  if t.scaled then (nb / 2) * (r + 64 * r / t.k) + (nb % 2) * (r + 32 * r / t.k) else nb * (32 / t.k)

/-- Column, row and SRD of product p of a forward tile. -/
def tileProduct (t : Tag) (fmt p : Nat) : Nat × Nat × Bool :=
  if !t.scaled then (p, p, false)
  else
    let n := 32 / t.k
    let r := tagRho fmt
    let b := p / n
    let m := p % n
    let q := b / 2
    (q * (1 + 64 / t.k) + 1 + (b % 2) * n + m, q * (r + 64 * r / t.k) + r + r * ((b % 2) * n + m),
      b % 2 == 0 && m == 0)

/-- Columns of a transposed tile: 32 div e (R86). -/
def trCols (t : Tag) : Nat := 32 / (16 / t.w.width)

/-- Blocks of one tap (R191). -/
def tapBlocks (d : Nat) : Nat := if sdConv d then sdKblk d / max 1 (sdTaps d) else sdKblk d

/-- Column span of a tile step. -/
def stepCols (d : Nat) : Nat :=
  if sdAxis d == 1 then trCols (sdTag d)
  else (if sdConv d then sdTaps d else 1) * colSpan (sdTag d) (tapBlocks d)

/-- Row offsets from row_A that a tap covers, from its start. -/
def tapRows (d : Nat) : Nat :=
  if sdAxis d == 1 then 32 / effRank (sdTag d) 1 else actSpan (sdTag d) (sdFmt d) (tapBlocks d)

/-- Products of one block. -/
def blockProducts (d : Nat) : Nat := 32 / effRank (sdTag d) (sdAxis d)

/-- Blocks of a leaf, leaves of a tile (R205). -/
def leafBlocks (d : Nat) : Nat := if sdLeafb d == 0 then max 1 (sdKblk d) else sdLeafb d
def leaves (d : Nat) : Nat := if sdLeafb d == 0 then 1 else sdKblk d / sdLeafb d

/-! ### Checks when a front starts (Table 08-8, rows 3 to 7) -/

/-- A violation found by the sequencer. -/
def stnViol (row addr : Nat) : Viol := ⟨6, 0x80 + row, addr, rStnViol⟩

/-- The reserved bit fields of the descriptor: high and low bit. -/
def sdReserved : List (Nat × Nat) :=
  [(23, 18), (63, 52), (111, 110), (127, 122), (191, 158), (255, 221)] ++
    ((upto 6).map fun j => (287 + 32 * j, 277 + 32 * j)) ++ [(1023, 944), (1087, 1029), (1279, 1102)] ++
    ((upto 16).map fun j => (1375 + 96 * j, 1354 + 96 * j)) ++ [(4095, 2816)]

/-- The fields that a kind does not use. -/
def sdUnused (d : Nat) : List (Nat × Nat) :=
  (if sdMatrix d then []
    else [(11, 4), (13, 13), (17, 17), (79, 64), (95, 80), (106, 96), (109, 107), (121, 112), (133, 128), (559, 448),
      (911, 896), (927, 912), (943, 928)]) ++
  (if sdConv d then [] else [(199, 192)]) ++
  (if sdGather d then [(139, 134), (145, 140), (671, 560), (783, 672), (911, 896)]
    else [(201, 200), (205, 202), (215, 206), (220, 216)]) ++
  (if sdConv d || sdGather d then [] else [(157, 152)])

/-- Bit offset of the first field of a list that is not 0. -/
def firstSet (d : Nat) (fs : List (Nat × Nat)) : Option Nat :=
  (fs.find? fun f => bits d f.1 f.2 != 0).map (·.2)

/-- Row 3: KIND, FMT, GFMT, EN, KBLK, reserved and unused fields. -/
def badFields (fv2 : Bool) (d : Nat) : Option Nat :=
  if sdKind d == 0 || sdKind d > 4 || (fv2 && sdGather d) then some 0
  else if sdMatrix d && ((tagOf (sdFmt d)).isNone || (fv2 && sdFmt d == 0xE)) then some 4
  else if sdGather d && sdGfmt d > 5 then some 202
  else if sdMatrix d && sdEn d == 0 then some 9
  else if sdMatrix d && sdKblk d == 0 then some 64
  else if sdWrld d == 7 then some 107
  else if sdWrows d > 1024 then some 96
  else if sdChain d && sdChainRow d % 8 != 0 then some 1088
  else firstSet d (sdReserved ++ sdUnused d)

/-- Row 5. -/
def badShape (d : Nat) : Option Nat :=
  let t := sdTag d
  if sdWrld d != 0 && sdWrows d == 0 then some 107
  else if sdAxis d == 1 && (sdKblk d != 1 || t.scaled || sdWcstr d % trCols t != 0) then some 8
  else if sdConv d && (sdTaps d == 0 || sdTaps d > 64 || sdKblk d % sdTaps d != 0 ||
      (t.scaled && sdKblk d / sdTaps d % 2 == 1)) then some 192
  else if sdLeafb d != 0 && (sdKblk d % sdLeafb d != 0 || (t.scaled && sdLeafb d % 2 == 1)) then some 80
  else none

/-- Row 7. -/
def badGlaze (d : Nat) : Option Nat :=
  if !sdGather d then none
  else if sdGblk d == 0 || sdGblk d == 3 then some 200
  else if sdMsks d % 2 == 1 || sdMsks d < 2 then some 216
  else none

/-- The fields of a vector slot that name V registers, as bits 0 VD, 1 VA, 2 VB, 3 VC. -/
def vFields (x : VecSlot) : Nat :=
  match vform x.vop with
  | none => 0
  | some f =>
    let vd := match f with
      | .e1 | .e2 | .e3 | .am | .cv | .sc | .sel | .sf | .rand | .drop | .ld | .ldsc => true
      | .red => !bit x.vaux 1
      | _ => false
    b2n vd + 2 * b2n ((f.hasA && !x.fsrc) || f.isStore) + 4 * b2n ((f.hasB && !bit x.vaux 3) || f == .stq) +
      8 * b2n (f == .e3)

/-- Modulus of an index mode (Table 08-5); 1 for FIX. -/
def ixMod (m : Nat) : Nat := if m == 1 then 16 else if m == 2 then 8 else if m == 3 then 4 else 1

/-- A class M operation (Table 06-2). -/
def VecSlot.classM (x : VecSlot) : Bool :=
  match vform x.vop with
  | some f => f.isLoad || f.isStore
  | none => false

/-- An indexed field or a GSTEP that R193 or R194 forbids. -/
def badUop (u : Nat) : Bool :=
  let x := uoVec u
  let fields := [x.vd, x.va, x.vb, x.vc]
  ((upto 4).any fun f =>
    uoIx u f != 0 && (!bit (vFields x) f || fields.getD f 0 + ixMod (uoIx u f) - 1 > 31)) ||
    (uoGstep u != 0 && !x.classM)

/-- Row 6: the micro-op index. -/
def badChain (d : Nat) : Option Nat :=
  let us := sdChainOps d
  let n := us.length
  let part (j : Nat) : Nat := uoPart (us.getD j 0)
  let pops (j : Nat) : Bool := (uoVec (us.getD j 0)).fsrc
  let popsAt := (upto n).filter pops
  if sdEnum d > 16 then some 16
  else match (upto n).find? fun j => (j + 1 < n && part (j + 1) < part j) || badUop (us.getD j 0) ||
      (pops j && (part j != 1 || !sdMatrix d)) with
    | some j => some j
    | none => if sdMatrix d && popsAt.length != 1 then some (popsAt.getD 1 0) else none

/-- Row offsets that the micro-ops with ASEL a reach (R185, R194); none where no micro-op names it. -/
def uopSpan (d a n1 : Nat) : Option (Int × Int) :=
  let us := (sdChainOps d).filter fun u => uoAsel u == a && (uoVec u).classM
  let lo := us.map fun u => ((uoVec u).spa : Int)
  let hi := us.map fun u =>
    let n := if uoPart u == 0 then 0 else if uoPart u == 1 then n1 else 15
    (((uoVec u).spa + (n >>> uoGstep u) * uoGrow u : Nat) : Int)
  match lo, hi with
  | l :: ls, h :: hs => some (ls.foldl min l, hs.foldl max h)
  | _, _ => none

/-- The union of two spans. -/
def spanOr (a b : Option (Int × Int)) : Option (Int × Int) :=
  match a, b with
  | some x, some y => some (min x.1 y.1, max x.2 y.2)
  | some x, none => some x
  | none, y => y

/-- A span with an offset that may be added to it. -/
def spanAdd (z : Int) (a : Option (Int × Int)) : Option (Int × Int) :=
  a.map fun x => (x.1 + min 0 z, x.2 + max 0 z)

/-- Row offsets from row_X that generator g covers in a tile step; taps are the offsets of a CONV2D. -/
def useSpan (d : Nat) (cnt : List Nat) (taps : List Int) (g : Nat) : Option (Int × Int) :=
  let n1 := if sdMatrix d then 15 else min 15 (cnt.getD 0 1 - 1)
  let two := bit (sdEn d) 1
  let acts : Option (Int × Int) :=
    if !sdMatrix d || sdGather d then none
    else
      let n : Int := tapRows d
      spanAdd (if two then sdA1off d else 0)
        (if sdConv d then taps.foldl (fun a z => spanOr a (some (z, z + n - 1))) none else some (0, n - 1))
  match g with
  | 0 => if sdWrows d == 0 then none else some (0, (sdWrows d : Int) - 1)
  | 1 => if sdGather d then none else spanOr acts (uopSpan d 3 n1)
  | 2 =>
    if sdGather d then none
    else spanAdd (((leaves d : Int) - 1) * sdLstr d) (spanAdd (if two then sdO1off d else 0) (uopSpan d 1 n1))
  | _ => uopSpan d 2 n1

/-- Some store of the chain goes through generator g. -/
def genWrites (d g : Nat) : Bool :=
  let a := if g == 1 then 3 else if g == 2 then 1 else if g == 3 then 2 else 4
  (sdChainOps d).any fun u => uoAsel u == a &&
    match vform (uoVec u).vop with
    | some f => f.isStore
    | none => false

/-- H_X names the own scratchpad from a row's first byte on (R183). -/
def Core.spHandle (k : Core) (coord c h : Nat) (write : Bool) : Bool :=
  k.htValid h && k.htAddr h % 64 == 0 && gaCoord (k.htAddr h) == coord && gaSpace (k.htAddr h) == spSp &&
    gaOff (k.htAddr h) >>> 20 == c && !(write && k.htReadOnly h)

/-- Generator g fails R183 or R185: the address logged. -/
def Core.badGen (k : Core) (coord c d : Nat) (cnt : List Nat) (taps : List Int) (g : Nat) : Option Nat :=
  match useSpan d cnt taps g with
  | none => none
  | some sp =>
    let h := sdH d g
    let r := genSpan d g cnt
    let lo := sdBase d g + r.1 + sp.1
    let hi := sdBase d g + r.2 + sp.2
    if !k.spHandle coord c h (genWrites d g) then some (handleAddr h 0)
    else if lo < 0 then some (handleAddr h (wrapInt 64 (64 * lo)))
    else if 64 * (hi + 1) > (k.htSize h : Int) then some (handleAddr h (wrapInt 64 (64 * hi)))
    else none

/-- Row 4. The activation rows of a CONV2D are checked once its taps are read (taps present). -/
def Core.badRows (k : Core) (coord c d : Nat) (cnt : List Nat) : Option Nat :=
  let gens := (upto 4).filter fun g => !(sdConv d && g == 1)
  match gens.findSome? (k.badGen coord c d cnt []) with
  | some a => some a
  | none =>
    let x := sdH d 4
    let top := (cnt.getD 0 1 - 1) * sdWcstr d + stepCols d
    let gtop := sdGcol d + sdGblk d * (32 / ((tagOf (sdGfmt d)).map Tag.k).getD 1)
    if (sdConv d || sdGather d) && (!k.spHandle coord c x false ||
        (sdConv d && (decide (2 * sdTaps d > k.htSize x) ||
          decide (bits (k.htAddr x) 19 6 + (2 * sdTaps d + 63) / 64 > nRows)))) then some (handleAddr x 0)
    else if sdPost d && !(k.resolves (sdPostH d) 0 4 true [spSync] && k.htAddr (sdPostH d) % 4 == 0) then
      some (handleAddr (sdPostH d) 0)
    else if sdMatrix d && top > 1024 then some (handleAddr (sdH d 0) (64 * (top - 1)))
    else if sdGather d && gtop > 1024 then some (handleAddr (sdH d 0) (64 * (gtop - 1)))
    else none

/-- The check of the whole descriptor at the start of its front (R181, R185). -/
def Core.stencilViol (k : Core) (coord c d : Nat) (cnt : List Nat) : Option Viol :=
  match badFields k.fv2 d with
  | some b => some (stnViol 3 b)
  | none =>
    match badShape d with
    | some b => some (stnViol 5 b)
    | none =>
      match badChain d with
      | some j => some (stnViol 6 j)
      | none =>
        match badGlaze d with
        | some b => some (stnViol 7 b)
        | none => (k.badRows coord c d cnt).map (stnViol 4)

/-! ### Gather entries (Table 08-7) -/

def geA (e a : Nat) : Nat := if a == 0 then bits e 13 0 else bits e 27 14
def geO (e a : Nat) : Nat := if a == 0 then bits e 41 28 else bits e 55 42
def geNpass (e : Nat) : Nat := bits e 58 56
def geCont (e : Nat) : Bool := bit e 59
def gePass (e j : Nat) : Nat := bits e (175 + 112 * j) (64 + 112 * j)
def gpU (p : Nat) : Nat := bits p 13 0
def gpT (p a : Nat) : Nat := if a == 0 then bits p 27 14 else bits p 41 28
def gpMask (p a : Nat) : Nat := if a == 0 then bits p 73 42 else bits p 105 74

def geBad (e : Nat) : Bool :=
  geNpass e > 4 || bits e 63 60 != 0 || (upto 4).any fun j => bits (gePass e j) 111 106 != 0

/-! ### Operations of the front -/

/-- A row number; one below 0 stands as a row past the scratchpad. -/
def rowNat (r : Int) : Nat := if r < 0 then 2 ^ 32 else r.toNat

/-- Weight load (R186): n rows from row into the columns from col on, two a cycle. -/
def loadOps (row : Int) (col n : Nat) : List FrontOp :=
  (upto ((n + 1) / 2)).map fun m =>
    let both := 2 * m + 1 < n
    ⟨{ mop := 4, fmt := 0, axis := 0, bank := 0, en := if both then 3 else 1, wsa := 4 * (col + 2 * m),
       a0 := rowNat (row + 2 * m), a1 := if both then rowNat (row + 2 * m + 1) else 0, maux := 0 }, none⟩

/-- A product of the front. -/
def productOp (fmt axis bank en col : Nat) (r0 r1 : Int) (init srd last glz : Bool) (sel : Nat) : FrontOp :=
  ⟨{ mop := 1, fmt, axis, bank, en, wsa := 4 * col, a0 := if bit en 0 then rowNat r0 else 0,
     a1 := if bit en 1 then rowNat r1 else 0,
     maux := b2n init + 2 * b2n srd + 4 * b2n last + 8 * b2n glz + 16 * sel }, none⟩

/-- The base products of a tile step (R184, R187, R189, R191, R205): r0 and r1 are the first rows of the two arrays;
close tells whether the last leaf retires with its last product. -/
def baseOps (d i1 bank0 : Nat) (r0 r1 : Int) (taps : List Int) (close : Bool) : List FrontOp :=
  let t := sdTag d
  let fmt := sdFmt d
  let per := blockProducts d
  let n := tapBlocks d * per
  let col0 := i1 * sdWcstr d
  (taps.zip (upto taps.length)).flatMap fun tap =>
    (upto n).map fun p =>
      let q := tap.2 * n + p
      let inLeaf := q % (leafBlocks d * per)
      let leaf := q / (leafBlocks d * per)
      let init := inLeaf == 0
      let last := inLeaf + 1 == leafBlocks d * per && (close || leaf + 1 != leaves d)
      let bank := (bank0 + leaf) % 2
      if sdAxis d == 1 then
        productOp fmt 1 bank (sdEn d) col0 (r0 + tap.1 + p) (r1 + tap.1 + p) init false last false p
      else
        let x := tileProduct t fmt p
        productOp fmt 0 bank (sdEn d) (col0 + tap.2 * colSpan t (tapBlocks d) + x.1) (r0 + tap.1 + x.2.1)
          (r1 + tap.1 + x.2.1) init x.2.2 last false 0

/-- The masks of a pass are written before its first product (R203). -/
def withMasks (m : Nat × Nat) : List FrontOp → List FrontOp
  | [] => []
  | x :: xs => { x with masks := some m } :: xs

/-- One glaze pass after the operations so far (R201, R203); the second part is the UROW it leaves. -/
def passOps (d bank : Nat) (ops : List FrontOp) (lastU : Option Nat) (p : Nat) : List FrontOp × Option Nat :=
  let t := (tagOf (sdGfmt d)).getD (sdTag d)
  let n := sdGblk d * (32 / t.k)
  let load := if lastU == some (gpU p) then [] else loadOps (gpU p) (sdGcol d) n
  let m0 := gpMask p 0
  let m1 := gpMask p 1
  let en := b2n (bit (sdEn d) 0 && m0 != 0) + 2 * b2n (bit (sdEn d) 1 && m1 != 0)
  let prods := (upto n).map fun (j : Nat) =>
    productOp (sdGfmt d) 0 bank en (sdGcol d + j) (((gpT p 0 + j : Nat)) : Int) (((gpT p 1 + j : Nat)) : Int) false false
      false true (sdMsks d)
  (ops ++ load ++ withMasks (m0, m1) prods, some (gpU p))

/-- The final product retires with LAST where it enables every array of EN; otherwise an MRET follows (R202). -/
def closeStep (en bank : Nat) : List FrontOp → List FrontOp
  | [] => []
  | [x] =>
    if x.mat.en == en then [{ x with mat := { x.mat with maux := x.mat.maux + 4 } }]
    else [x, ⟨{ mop := 2, fmt := 0, axis := 0, bank, en, wsa := 0, a0 := 0, a1 := 0, maux := 0 }, none⟩]
  | x :: xs => x :: closeStep en bank xs

/-- What a tile step brings: its operations, the UROW it leaves, the tiles it hands to the epilogue. -/
structure TileStep where
  ops : List FrontOp
  lastU : Option Nat
  jobs : List TileJob
deriving DecidableEq, Repr

/-- The tiles of a tile step in queue order: leaf by leaf, MA0 before MA1 (R187, R205). -/
def stepJobs (d : Nat) (head : Bool) (o0 o1 pbase abase : Int) : List TileJob :=
  let js := (upto (leaves d)).flatMap fun (l : Nat) =>
    (arrays (sdEn d)).map fun a =>
      (⟨(if a == 0 then o0 else o1) + (l : Int) * sdLstr d, pbase, abase, false⟩ : TileJob)
  match js with
  | j :: rest => { j with head } :: rest
  | [] => []

/-- A reload stands before this tile step (R186). -/
def reloadsAt (d : Nat) (it : List Nat) : Bool :=
  sdWrld d != 0 && (it.take (sdWrld d - 1)).all (· == 0)

/-- The tile step at the front's iteration vector. -/
def Front.step (f : Front) : TileStep :=
  let d := f.d
  let it := f.it
  let load := sdWrows d != 0 && (f.first || reloadsAt d it)
  let wops := if load then loadOps (genRow d f.base 0 it) 0 (sdWrows d) else []
  let head := load && !f.first
  let p := genRow d f.base 3 it
  let i1 := it.getD 0 0
  if sdGather d then
    match f.ents with
    | [] => ⟨[], f.lastU, []⟩
    | e :: es =>
      let bank := (f.bank + leaves d - 1) % 2
      let passes := (e :: es).flatMap fun x => (upto (geNpass x)).map (gePass x)
      let b := baseOps d i1 f.bank (geA e 0) (geA e 1) [0] passes.isEmpty
      let r := passes.foldl (fun r p => passOps d bank r.1 r.2 p) (wops ++ b, f.lastU)
      ⟨if passes.isEmpty then r.1 else closeStep (sdEn d) bank r.1, r.2,
        stepJobs d head (geO e 0) ((geO e 1 : Int) + sdO1off d) p (geA e 0)⟩
  else
    let a := genRow d f.base 1 it
    let o := genRow d f.base 2 it
    ⟨wops ++ baseOps d i1 f.bank a (a + sdA1off d) (f.taps.getD [0]) true, f.lastU,
      stepJobs d head o (o + sdO1off d) p a⟩

/-! ### Instances of the epilogue stream (R193, R194) -/

/-- The instance of micro-op u with index n. -/
def uopInst (grp : Nat) (j : TileJob) (u n : Nat) : Inst :=
  let x := uoVec u
  let ix (f v : Nat) : Nat := v + (if uoIx u f == 0 then 0 else n % ixMod (uoIx u f))
  let base : Int := match uoAsel u with
    | 1 => j.obase
    | 2 => j.pbase
    | 3 => j.abase
    | _ => 0
  let g := if uoGstep u == 0 then bits x.vaux 5 4 else n % 2 ^ uoGstep u % 4
  ⟨grp, { x with
    vd := ix 0 x.vd, va := ix 1 x.va, vb := ix 2 x.vb, vc := ix 3 x.vc,
    spa := if x.classM then rowNat (base + x.spa + (((n >>> uoGstep u) * uoGrow u : Nat) : Int)) else x.spa,
    vaux := if uoGstep u == 0 then x.vaux else x.vaux % 16 + 16 * g }⟩

def partOps (d p : Nat) : List Nat := (sdChainOps d).filter fun u => uoPart u == p

/-- One group with the head before it and the tail after it. -/
def groupInsts (d grp : Nat) (j : TileJob) (n : Nat) (head tail : Bool) : List Inst :=
  let once (p n : Nat) : List Inst := (partOps d p).map fun u => uopInst grp j u n
  (if head then once 0 0 else []) ++ once 1 n ++
    (if tail then once 2 15 ++ (upto 16).flatMap (fun n => once 3 n) else [])

/-- The stream has generated everything that it will get. -/
def Epi.dry (e : Epi) : Bool := e.jobs.isEmpty && !e.more

/-- The next group enters the window. -/
def Epi.addGroup (e : Epi) : Epi :=
  match e.jobs with
  | j :: js =>
    let tail := e.grp == 15
    { e with window := e.window ++ groupInsts e.d e.grpNo j e.grp (e.grp == 0 && (e.head || j.head)) tail,
             jobs := if tail then js else e.jobs, grp := if tail then 0 else e.grp + 1, head := false,
             grpNo := e.grpNo + 1 }
  | [] =>
    if !e.more then e
    else
      let j : TileJob := ⟨genRow e.d e.base 2 e.it, genRow e.d e.base 3 e.it, genRow e.d e.base 1 e.it, false⟩
      let nx := nextIt e.it e.cnt
      { e with window := e.window ++ groupInsts e.d e.grpNo j (e.it.getD 0 0 % 16) e.head (!nx.2),
               it := nx.1, more := nx.2, head := false, grpNo := e.grpNo + 1 }

/-- The window reaches eight groups past the oldest instance that has not issued (R195). -/
def Epi.fill : Nat → Epi → Epi
  | 0, e => e
  | n + 1, e =>
    let old := match e.window with | x :: _ => x.grp | [] => e.grpNo
    if e.dry || decide (e.grpNo > old + 8) then e else Epi.fill n e.addGroup

end Sys2Proof.Machine
end

