-- ==== Sys2Proof/Machine/StencilRows.lean ====
section
/-!
DEFINITION. The stencil sequencer at work (R177 to R180, R187, R188, R195 to R203): registers complete, front start,
generated bundles, chaining, completion.
-/

namespace Sys2Proof.Machine

/-- The stencil registers (R177). -/
def Core.sdesc (k : Core) : Nat := join 32 ((upto 128).map fun j => k.reg (rStnDesc + 4 * j))

/-- Every row of a reader has been served and its data have arrived: 7 cycles after the last (R177). -/
def Reader.ready (r : Reader) (cyc : Nat) : Bool := r.got.length ≥ r.n && decide (r.lastAt + 7 ≤ cyc)

/-- The first poisoned row that a reader has read. -/
def Reader.poisoned (r : Reader) : Option Nat :=
  ((r.got.zip (upto r.got.length)).find? fun x => x.1.2).map fun x => r.row + x.2

/-- The rows of a reader as one number. -/
def Reader.value (r : Reader) : Nat := join 512 (r.got.map fun x => x.1.toNat)

/-- The finished reader of a kind leaves. -/
def Core.takeReader (k : Core) (kind cyc : Nat) : Option (Reader × Core) :=
  match takeFirst (fun r : Reader => r.kind == kind && r.ready cyc) k.readers with
  | some (r, rest) => some (r, { k with readers := rest })
  | none => none

def Core.reads (k : Core) (kind : Nat) : Bool := k.readers.any fun r => r.kind == kind

/-- A reader of the sequencer or of STLD begins (R177, R191, R197, R199). -/
def Core.beginRead (k : Core) (kind row n : Nat) : Core :=
  { k with readers := k.readers ++ [⟨kind, 0, row, n, false, [], 0, none⟩] }

def Core.setStn (k : Core) (x : Stencil) : Core := { k with stn := x }

def Core.setFront (k : Core) (f : Option Front) : Core := k.setStn { k.stn with front := f }

/-- Rows that the sequencer read are poisoned: fault (R371). -/
def State.seqPoison (s : State) (c row : Nat) : State := s.poisonFault c 4 6 (64 * row)

/-! ### Registers complete -/

/-- The stencil registers take the eight rows together (R177, R197); the stencil goes on once they are those that it was
started on (R178). -/
def State.stencilLoaded (s : State) (c : Nat) : State :=
  let cyc := s.cyc c
  let k := s.core c
  match (k.takeReader 0 cyc).or (k.takeReader 1 cyc) with
  | none => s
  | some (r, k) =>
    match r.poisoned with
    | some row => (s.setCore c k).seqPoison c row
    | none =>
      let v := r.value
      let k := (upto 128).foldl (fun k j => k.setReg (rStnDesc + 4 * j) (v >>> (32 * j))) k
      let t := r.lastAt + 7
      let x := { k.stn with regsAt := t }
      s.setCore c (k.setStn
        (if x.active && x.phase == 1 && (r.go || r.kind == 1) then { x with phase := 2, frontAt := max x.frontAt (t + 4) } else x))

/-- `STLD_DONE` (R177). -/
def execStldDone (c : Nat) (s : State) : Res := onCore c s fun s => s.stencilLoaded c

/-! ### Settling: the end of a front, of an epilogue stream, of the chain -/

/-- The front has issued everything (R188); the front of an EPILOGUE ends when it holds the stream (R196). -/
def Stencil.frontEnded (x : Stencil) : Bool :=
  match x.front with
  | some f => f.ops.isEmpty && !f.more && (sdKind f.d != 4 || decide (x.epis.length ≤ 1))
  | none => false

/-- The last epilogue will get no further tile; serial follows what its front issued. -/
def closeLast (serial : Nat) : List Epi → List Epi
  | [] => []
  | [e] => [if e.closed then e else { e with closed := true, frontEnd := serial }]
  | e :: es => e :: closeLast serial es

/-- Streams that have issued their last micro-op leave in order; serial bounds what they issued (R180, R197). -/
def Stencil.retire (serial : Nat) : Nat → Stencil → Stencil
  | 0, x => x
  | n + 1, x =>
    match x.epis with
    | [] => x
    | e :: es =>
      let e := e.fill 12
      if e.closed && e.dry && e.window.isEmpty then
        Stencil.retire serial n { x with epis := es, done := x.done ++ [⟨e.post, x.serial0, e.frontEnd, serial⟩] }
      else { x with epis := e :: es }

/-- Bookkeeping after an issue: ended fronts and streams; bundle memory resumes after the chain's last bundle (R178).
A front with CHAIN stays until STENCIL_CHAIN_LOAD. -/
def Core.stnSettle (k : Core) : Core :=
  let x := k.stn
  let over' := match x.front with
    | some f => f.ops.isEmpty && !f.more
    | none => false
  let x := if over' then { x with epis := closeLast k.is.serial x.epis } else x
  let x := x.retire k.is.serial 3
  let chain := match x.front with
    | some f => sdChain f.d
    | none => false
  let x := if x.frontEnded && !chain then { x with front := none, endAt := some (k.is.clk + 1) } else x
  let x := x.retire k.is.serial 3
  if x.active && x.front.isNone && (x.phase == 0 || x.endAt.isSome) && x.epis.isEmpty then
    { k with stn := { x with active := false }, is := { k.is with eligible := k.is.clk + 1 } }
  else { k with stn := x }

/-! ### Front start -/

/-- The tile step that follows is expanded, and its tiles go to the front's own epilogue (R186, R187). -/
def Stencil.expand (x : Stencil) (f : Front) : Stencil :=
  let it := if f.first then f.it else (nextIt f.it f.cnt).1
  let f := { f with it }
  let st := f.step
  let add (e : Epi) : Epi := { e with jobs := e.jobs ++ st.jobs }
  let epis := match x.epis.reverse with
    | e :: es => (add e :: es).reverse
    | [] => []
  { x with epis,
           front := some { f with
             ops := st.ops, lastU := st.lastU, ents := [], p := 0, first := false, more := (nextIt it f.cnt).2,
             bank := (f.bank + leaves f.d) % 2 } }

/-- A tap offset of the table's first rows (R191). -/
def tapTable (v n : Nat) : List Int := (upto n).map fun j => sext 16 (v >>> (16 * j))

/-- The front of a CONV2D takes its tap table, and its activation rows are checked (R185, R191). -/
def State.seqTaps (s : State) (c : Nat) (f : Front) : State :=
  let k := s.core c
  let n := sdTaps f.d
  match k.takeReader 2 (s.cyc c) with
  | some (r, k) =>
    let s := s.setCore c k
    match r.poisoned with
    | some row => s.seqPoison c row
    | none =>
      let taps := tapTable r.value n
      match k.badGen s.fab.coord c f.d f.cnt taps 1 with
      | some a => s.violate c 0x84 6 a rStnViol
      | none => s.setCore c (k.setFront (some { f with taps := some taps }))
  | none => if k.reads 2 then s else s.setCore c (k.beginRead 2 f.xrow ((2 * n + 63) / 64))

/-- The front of a GATHER_MATMUL takes the entry that it has read, or begins to read the next one (R199). -/
def State.seqEntry (s : State) (c : Nat) (f : Front) : State :=
  let k := s.core c
  let row := f.xrow + f.entryNo
  match k.takeReader 3 (s.cyc c) with
  | some (r, k) =>
    let s := s.setCore c k
    match r.poisoned with
    | some row => s.seqPoison c row
    | none =>
      let e := r.value
      if geBad e then s.violate c 0x88 6 (64 * row) rStnViol
      else
        s.setCore c ((k.bump rStnEntry).setFront (some { f with ents := f.ents ++ [e], entryNo := f.entryNo + 1 }))
  | none =>
    if k.reads 3 then s
    else if 64 * (f.entryNo + 1) > k.htSize (sdH f.d 4) || decide (nRows ≤ row) then s.violate c 0x88 6 (64 * row) rStnViol
    else s.setCore c (k.beginRead 3 row 1)

/-- The front has every entry of the tile step to come. -/
def Front.entries (f : Front) : Bool :=
  match f.ents.getLast? with
  | some e => !geCont e
  | none => false

/-- The front prepares its next tile step once the one before it has issued. -/
def State.seqPrep (s : State) (c : Nat) : State :=
  let k := s.core c
  match k.stn.front with
  | none => s
  | some f =>
    if !f.ops.isEmpty || !f.more then s
    else if sdConv f.d && f.taps.isNone then s.seqTaps c f
    else if sdGather f.d && !f.entries then s.seqEntry c f
    else s.setCore c (k.setStn (k.stn.expand f))

/-- The front starts on the checked descriptor d (R178, R181). -/
def Core.frontBegin (k : Core) (d : Nat) (cnt : List Nat) : Core :=
  let base := k.genBases d
  let it := List.replicate 6 0
  let f : Front :=
    { d, base, cnt, it, ops := [], more := sdMatrix d, first := true, masked := false, lastOp := 0, p := 0, bank := sdBank0 d,
      taps := none, xrow := bits (k.htAddr (sdH d 4)) 19 6, entryNo := 0, ents := [], lastU := none,
      began := false, heldSince := none }
  let e : Epi :=
    { d, base, cnt, it, more := sdKind d == 4, jobs := [], grp := 0, head := true, grpNo := 0, window := [],
      closed := false, frontEnd := 0, post := if sdPost d then some (k.htAddr (sdPostH d)) else none }
  k.setStn { k.stn with phase := 3, wait := none, front := some f, epis := k.stn.epis ++ [e] }

/-- A front may start: its turn has come and no more than one earlier epilogue is under way (R178, R197). -/
def Core.frontDue (k : Core) (cyc : Nat) : Bool :=
  let x := k.stn
  x.active && x.phase == 2 && x.front.isNone && !k.is.stopped && decide (x.frontAt ≤ cyc) &&
    decide (x.epis.length ≤ 1)

/-- The start of a front: its wait (R180), its pending S registers, the check of the descriptor (R185). -/
def State.frontStart (s : State) (c : Nat) : State :=
  let k := s.core c
  let d := k.sdesc
  if !k.frontDue (s.cyc c) then s
  else if sdWait d && k.stn.wait.isNone then
    if !(k.resolves (sdWaitH d) 0 4 false [spSync] && k.htAddr (sdWaitH d) % 4 == 0) then
      s.violate c 0x84 6 (handleAddr (sdWaitH d) 0) rStnViol
    else
      let r := s.beginWait c 2 (k.htAddr (sdWaitH d)) (sdCount d) false
      if r.2 then r.1 else r.1.violate c 0xB3 6 (k.htAddr (sdWaitH d)) rQViol
  else if sdWait d && !released k.stn.wait then s
  else if (upto 6).any fun j => k.sPending (sdCreg d (j + 1)) then s
  else
    let cnt := k.levels d
    match k.stencilViol s.fab.coord c d cnt with
    | some v => s.violate c v.code v.slot v.addr v.cnt
    | none => ((s.setCore c (k.frontBegin d cnt)).seqPrep c).modCore c Core.stnSettle

/-- `STENCIL_FRONT_START` (R185). -/
def execStencilFrontStart (c : Nat) (s : State) : Res := onCore c s fun s =>
  if s.ctl.st == stRunning then s.frontStart c else s

/-! ### Generated bundles -/

/-- Registers that an instance writes: V r as r, M r as 32 + r, S r as 64 + r. -/
def instWrites (x : VecSlot) : List Nat :=
  match vform x.vop with
  | none => []
  | some .cmp | some .m1 | some .m2 | some .mld => [32 + x.vd % 8]
  | some .cnt => [64 + x.vd]
  | some .red =>
    if bit x.vaux 1 then (if bit x.vaux 2 then [64 + x.vd, 65 + x.vd] else [64 + x.vd])
    else [x.vd]
  | some .st | some .stq | some .stsc | some .fd => []
  | some .e1 => if x.vop == 0x0D then [x.vd, x.vd + 1] else [x.vd]
  | some _ => [x.vd]

/-- Registers that an instance reads. -/
def instReads (x : VecSlot) : List Nat :=
  vecReads x ++ (maskReads x).map (32 + ·) ++
    ((vecRegs x).filter fun r => r != 0 && !(instWrites x).contains (64 + r)).map (64 + ·)

/-- Registers with a write of the chain pending. -/
def Core.pendingRegs (k : Core) : List Nat :=
  k.inflight.filterMap fun d =>
    if d.serial < k.stn.serial0 then none
    else match d.eff with
      | .vreg r _ _ _ => some r
      | .mreg r _ _ _ _ => some (32 + r)
      | .sreg r _ => some (64 + r)
      | _ => none

/-- A store of the chain is not visible yet. -/
def Core.storePending (k : Core) : Bool :=
  k.inflight.any fun d => k.stn.serial0 ≤ d.serial && match d.eff with
    | .row r _ _ _ => r == 1
    | _ => false

/-- Two lists of registers have one in common. -/
def share (a b : List Nat) : Bool := a.any b.contains

/-- The instance may issue after the instances before it that have not issued (R195). -/
def instOk (k : Core) (before : List Inst) (x : VecSlot) : Bool :=
  let w := instWrites x
  let rw := instReads x ++ w
  let ld := x.vop == 0x48 || x.vop == 0x49
  !(before.any fun e => share (instWrites e.vec) rw || share (instReads e.vec) w || (x.classM && e.vec.classM) ||
      (x.pops && e.vec.pops)) &&
    !share k.pendingRegs rw && !(vecRegs x).any k.sPending && !(ld && k.storePending) &&
    !(x.pops && k.ftqHead.st != 3) &&
    !(vform x.vop == some .sf && match k.ve.lastF with | some p => k.is.clk < p + 4 | none => false)

/-- The earliest instance that may issue, and the window without it (R195). -/
def pickInst (k : Core) (before : List Inst) : List Inst → Option (Inst × List Inst)
  | [] => none
  | x :: xs => if instOk k before x.vec then some (x, before ++ xs) else pickInst k (before ++ [x]) xs

/-- R187 or R61 holds the operation: INIT until its bank is IDLE, a retirement until the queue has room. -/
def opHeld (k : Core) (x : MatSlot) : Bool :=
  bankHeld k x || (x.mop == 1 && x.init && (arrays x.en).any fun a => (k.bank a x.bank).st != 0)

/-- A column that the product reads is still on its way at pipeline clock t (R186). -/
def colsPending (k : Core) (x : MatSlot) (t : Nat) : Bool :=
  k.inflight.any fun d => match d.eff with
    | .wcol n _ _ => (matCols x).contains n && decide (t < d.due)
    | _ => false

/-- DSYNC holds the front's first product (R198). -/
def dsyncHeld (k : Core) (f : Front) (x : MatSlot) : Bool :=
  sdDsync f.d && x.mop == 1 && !f.began && !(k.stn.done.isEmpty && decide (k.stn.epis.length ≤ 1))

/-- The front's next operation, if nothing holds it. -/
def Core.frontOp (k : Core) : Option FrontOp :=
  match k.stn.front with
  | some f =>
    match f.ops with
    | o :: _ =>
      if opHeld k o.mat || colsPending k o.mat k.is.clk || dsyncHeld k f o.mat || (o.masks.isSome && !f.masked) then none
      else some o
    | [] => none
  | none => none

/-- The front has an operation. -/
def Core.frontHas (k : Core) : Bool :=
  match k.stn.front with
  | some f => !f.ops.isEmpty
  | none => false

/-- The stream's next instance, if one may issue. -/
def Core.streamInst (k : Core) : Option (Inst × List Inst) :=
  match k.stn.epis with
  | e :: _ => pickInst k [] e.window
  | [] => none

/-- The masks that the bundle of this cycle writes, where o is the front's operation in it: those of the product that comes
next, in the cycle before that product finds its columns (R203). -/
def Core.masksNow (k : Core) (o : Option FrontOp) : Option (Nat × Nat × Nat) :=
  match k.stn.front with
  | none => none
  | some f =>
    match (if o.isSome then f.ops.drop 1 else f.ops) with
    | [] => none
    | x :: _ =>
      let loads := match o with | some y => y.mat.mop != 1 | none => false
      match x.masks with
      | some (m0, m1) =>
        if (f.masked && o.isNone) || loads || colsPending k x.mat (k.is.clk + 1) then none else some (sdMsks f.d, m0, m1)
      | none => none

/-- The generated bundle (R179). -/
def Core.genBundle (k : Core) (o : Option FrontOp) (x : Option (Inst × List Inst)) : Bundle :=
  let b := bundleOf 0
  { b with
    chkM := match k.stn.front with | some f => sdChkM f.d | none => false,
    chkV := match k.stn.epis with | e :: _ => sdChkV e.d | [] => false,
    mat := match o with | some o => o.mat | none => b.mat,
    masks := k.masksNow o,
    vec := match x with | some (i, _) => i.vec | none => b.vec }

/-- What the issued bundle consumed leaves its streams; wrote tells whether it wrote the masks of the next product. -/
def Core.consumed (k : Core) (o : Option FrontOp) (x : Option (Inst × List Inst)) (wrote : Bool) : Core :=
  let k := match o, k.stn.front with
    | some o, some f =>
      let isProd := o.mat.mop == 1
      k.setFront (some { f with
        ops := f.ops.drop 1, p := f.p + b2n isProd, began := f.began || isProd, masked := wrote, lastOp := k.is.clk })
    | none, some f => k.setFront (some { f with masked := f.masked || wrote })
    | _, none => k
  match x, k.stn.epis with
  | some (_, rest), e :: es => k.setStn { k.stn with epis := { e with window := rest } :: es }
  | _, _ => k

/-- The cycle counts for the parts that were held (R179), and the front's hold under R187 runs on (R281). -/
def Core.countHolds (k : Core) (o : Option FrontOp) (x : Option (Inst × List Inst)) (held : Bool) (now : Nat) : Core :=
  let k := if o.isNone && k.frontHas then k.bump rStnHoldM else k
  let waiting := match k.stn.epis with | e :: _ => !e.window.isEmpty | [] => false
  let k := if x.isNone && waiting then k.bump rStnHoldV else k
  match k.stn.front with
  | some f => k.setFront (some { f with heldSince := if held then some (f.heldSince.getD now) else none })
  | none => k

/-- R187 or R61 holds the front's next operation. -/
def Core.frontHeld (k : Core) : Bool :=
  match k.stn.front with
  | some f => match f.ops with | op :: _ => opHeld k op.mat | [] => false
  | none => false

/-- The first row of the bundle that is held on segment state, as a byte address. -/
def heldAddr (k : Core) (b : Bundle) : Nat := 64 * ((checkedRows k b).find? fun r => !k.landed r).getD 0

/-- One cycle of the sequencer (R179, R195). -/
def State.seqIssue (s : State) (c : Nat) : State :=
  let s := s.seqPrep c
  let k := { s.core c with stn := (s.core c).stn.retire (s.core c).is.serial 3 }
  let s := s.setCore c k
  if k.is.stopped then s
  else
    let o := k.frontOp
    let x := k.streamInst
    let now := s.scr.now
    let b := k.genBundle o x
    if o.isNone && x.isNone && b.masks.isNone then
      s.modCore c fun k => ({ k.countHolds o x k.frontHeld now with is := { k.is with tried := true } } : Core).stnSettle
    else
      let r := s.tryBundle c b k.bundleIndex true
      let s := r.1.modCore c fun k1 => if k1.is.tried then k1.countHolds o x k.frontHeld now else k1
      if r.2 then s.modCore c fun k1 => (k1.consumed o x b.masks.isSome).stnSettle
      else s.modCore c fun k1 => k1.setStn { k1.stn with heldAddr := heldAddr k b }

/-- `SEQUENCER_ISSUE` (R179). -/
def execSequencerIssue (c : Nat) (s : State) : Res := onCore c s fun s =>
  let k := s.core c
  if s.ctl.st == stRunning && k.mayIssue && k.stn.active && (k.stn.front.isSome || !k.stn.epis.isEmpty) then s.seqIssue c
  else s

/-! ### Chaining and completion -/

/-- `STENCIL_CHAIN_LOAD` (R197). -/
def execStencilChainLoad (c : Nat) (s : State) : Res := onCore c s fun s =>
  let k := s.core c
  match k.stn.front with
  | some f =>
    if k.stn.active && !k.is.stopped && k.stn.frontEnded && decide (f.lastOp < k.is.clk) && sdChain f.d then
      s.setCore c ((k.setStn { k.stn with front := none, phase := 1 }).beginRead 1 (sdChainRow f.d) 8)
    else s
  | none => s

/-- The operation of a column load belongs to a front, every other one to an epilogue stream. -/
def Effect.ofFront : Effect → Bool
  | .wcol _ _ _ => true
  | _ => false

/-- Everything that the stencil issued is visible (R180); a later front may have issued meanwhile. -/
def StnDone.visible (x : StnDone) (k : Core) : Bool :=
  !k.inflight.any fun d => d.pipe && decide (x.since ≤ d.serial) &&
    decide (d.serial < if d.eff.ofFront then x.front else x.serial)

/-- The oldest stencil of the chain completes, with its post (R180). -/
def State.stencilComplete (s : State) (c : Nat) : State :=
  let k := s.core c
  match k.stn.done with
  | [] => s
  | x :: rest =>
    if !x.visible k || (match x.post with | some a => !s.postReady c ⟨a, x.serial⟩ | none => false) then s
    else
      let s := s.setCore c ((k.setStn { k.stn with done := rest }).bump rStnDone)
      match x.post with
      | none => s
      | some a =>
        let r := s.postSend c 2 a 1
        if r.2 then r.1 else r.1.semError c 12 a

/-- `STENCIL_COMPLETE` (R180). -/
def execStencilComplete (c : Nat) (s : State) : Res := onCore c s fun s => s.stencilComplete c

end Sys2Proof.Machine
end

