-- ==== Sys2Proof/Machine/Meter.lean ====
section
/-!
DEFINITION. One cycle of a bay (R60, R63, R64, R66, R170, R362): the engines' row accesses of the cycle that ends, the
step of the clocks, what becomes visible, and the token meter's grants for the cycle that begins.
-/

namespace Sys2Proof.Machine

/-- Cores of bay b, lowest first: each takes part in every cycle of its bay (R66). -/
def State.present (_ : State) (b : Nat) : List Nat := (upto 56).map fun i => 56 * b + i

/-! ### Row reads of the engines in the cycle that ends -/

/-- Reader i, and mailbox record i on its way out, replaced. -/
def Core.setReader (k : Core) (i : Nat) (r : Reader) : Core := { k with readers := lset k.readers i r }
def Core.setRecord (k : Core) (i : Nat) (m : MbOut) : Core := { k with mbOut := lset k.mbOut i m }

/-- One reader's read of this cycle (R177, R191, R197, R199, R224); rank 9. -/
def State.readerRow (s : State) (c i : Nat) : State :=
  let k := s.core c
  match k.readers[i]? with
  | none => s
  | some r =>
    let row := r.row + r.got.length
    if r.got.length ≥ r.n then s
    else if !k.landed row then
      s.setCore c (k.setReader i { r with heldSince := some (r.heldSince.getD s.scr.now) })
    else if k.fv2 && k.rowGap row (s.cyc c) then s.setCore c (k.bump rFv2Hold)
    else if k.portTaken false row then s.setCore c k.held
    else
      let x := (s.setCore c (k.usePort false row 9)).readRow c row
      x.1.modCore c fun k =>
        k.setReader i { r with got := r.got ++ [(x.2.1, x.2.2)], lastAt := s.cyc c, heldSince := none }

/-- The readers' rows: those of the stencils first, SPLD last (R63). -/
def State.readersCycle (s : State) (c : Nat) : State :=
  (s.core c).readerOrder.foldl (fun s i => s.readerRow c i) s

/-- The row that stream engine n wants (R231, R233); rank 11. -/
def State.seReadRow (s : State) (c n : Nat) : State :=
  let k := s.core c
  match k.seRow s.fab.coord c n with
  | none => s
  | some row =>
    if !k.landed row then s.setCore c (k.seHeld n s.scr.now)
    else if k.fv2 && k.rowGap row (s.cyc c) then s.setCore c (k.bump rFv2Hold)
    else if k.portTaken false row then s.setCore c k.held
    else
      let x := (s.setCore c (k.usePort false row 11)).readRow c row
      x.1.modCore c fun k => k.seTake n row x.2.1 x.2.2

/-- The mailbox record whose body is being read. -/
def curRecord : List MbOut → Option (Nat × MbOut)
  | [] => none
  | m :: ms => if m.got.length < mbBodyRows m.n then some (0, m) else (curRecord ms).map fun x => (x.1 + 1, x.2)

/-- The next body row of MB.SEND (R275); rank 11, after the engines. -/
def State.recordRow (s : State) (c : Nat) : State :=
  let k := s.core c
  match curRecord k.mbOut with
  | none => s
  | some (i, m) =>
    let row := m.row + m.got.length
    if !k.landed row then
      s.setCore c (k.setRecord i { m with heldSince := some (m.heldSince.getD s.scr.now) })
    else if k.fv2 && k.rowGap row (s.cyc c) then s.setCore c (k.bump rFv2Hold)
    else if k.portTaken false row then s.setCore c k.held
    else
      let x := (s.setCore c (k.usePort false row 11)).readRow c row
      let s := x.1.modCore c fun k =>
        k.setRecord i { m with got := m.got ++ [(x.2.1, x.2.2)], heldSince := none }
      s.sendRecords c (s.core c).mbOut.length

/-- The row of core c that the control port reads next. -/
def State.portRowOf (s : State) (c : Nat) : Option (SpRead × Nat) :=
  match s.ctl.sp with
  | some r => if r.left == 0 || r.x >>> 20 != c then none else some (r, r.x % 2 ^ 20 / 64)
  | none => none

/-- The control port's read of a row, at the scrub rank, before the scrubber's own (R171; DESIGN CHOICE, log entry 111). -/
def State.portRow (s : State) (c : Nat) : State :=
  match s.portRowOf c with
  | none => s
  | some (r, row) =>
    let k := s.core c
    if k.portTaken false row then s.setCore c k.held
    else
      let m := min r.left (64 - r.x % 64)
      let x := (s.setCore c (k.usePort false row 12)).readRow c row
      let got := ((toBytes 64 x.2.1.toNat).drop (r.x % 64)).take m
      let next : SpRead :=
        ⟨r.x + m, r.left - m, r.got ++ got, if x.2.2 then some (r.bad.getD r.got.length) else r.bad⟩
      { x.1 with ctl := { x.1.ctl with sp := some next } }

/-- Every engine read, the control port's and the scrubber's accesses of the cycle that ends, by rank (R63). A refused core
starts none of its engines' reads (R66). -/
def State.engineRows (s : State) (c : Nat) : State :=
  let s := s.lmRead c
  let s :=
    if !(s.core c).is.granted then s
    else ((upto 4).foldl (fun s n => s.seReadRow c n) (s.readersCycle c)).recordRow c
  let s := if (s.core c).is.granted then s.portRow c else s
  let s := s.scrubServe c
  s.modCore c fun k => k.scrubBack (s.cyc c)

/-! ### Requests (Table 03-11) -/

/-- Tokens of the bundle that would issue in this cycle, another interlock than the meter's or none holding it (DEDUCED, log
entry 115). -/
def Core.bundleWant (k : Core) : Nat :=
  if k.pnl.phase != 2 || k.is.stopped || decide (k.is.clk < k.is.eligible) then 0
  else if k.stn.active then bundleTokens (k.genBundle k.frontOp k.streamInst)
  else bundleTokens k.atIssue

/-- Row accesses that the local-memory and stream engines, the readers, MB.SEND, the landing rows and the scrubber would
start. -/
def Core.rowWants (k : Core) (coord c cyc : Nat) : Nat :=
  let lm := match k.lmCur with
    | none => 0
    | some o =>
      b2n (o.wants cyc).isSome +
        b2n (o.lop == 2 && o.started && decide (o.rd < o.len) && (!o.chk || k.landed (o.src + o.rd * o.sstr)))
  let rd := k.readers.countP fun r => decide (r.got.length < r.n) && k.landed (r.row + r.got.length)
  let se := (upto 4).countP fun n => match k.seRow coord c n with | some row => k.landed row | none => false
  let mb := match curRecord k.mbOut with | some (_, m) => b2n (k.landed (m.row + m.got.length)) | none => 0
  let land := if k.is.noBeat then 0 else (upto 5).countP fun w => (k.landRowOf w).isSome
  lm + rd + se + mb + land + k.scrubWants cyc

/-- The request N of core c, whose present state is k (R362). -/
def State.request (s : State) (k : Core) (c cyc : Nat) : Nat :=
  k.bundleWant + k.rowWants s.fab.coord c cyc + b2n (s.portRowOf c).isSome

/-! ### The step of the clocks -/

/-- Vector stores whose row write is presented in this cycle (R146). -/
def Core.veWrites (k : Core) : List Nat :=
  k.inflight.filterMap fun d => match d.eff with
    | .row 1 row _ _ => if d.pipe && d.due == k.is.clk + 3 then some row else none
    | _ => none

/-- CORE_TOK and PNL_TOK_OVER take the sum that the core presented in the cycle that ends (R66, Table 02-9). -/
def Core.countTokens (k : Core) (refused : Nat) : Core :=
  let now := 1 + k.is.tok + refused
  let peak := max (bits (k.reg rCoreTok) 31 16) now
  let k := k.setReg rCoreTok (now % 65536 + (peak % 65536) <<< 16)
  match k.pnl.tokLim with
  | none => k
  | some lim =>
    let exceeds := decide (lim < now) && !k.pnl.tokOver
    let k := if exceeds then k.bump rPnlTokOver else k
    let k := { k with pnl := { k.pnl with tokOver := k.pnl.tokOver || exceeds } }
    if k.pnl.phase == 2 then k else { k with pnl := { k.pnl with tokLim := none } }

/-- A new cycle of the core: the pipeline clock runs on unless it was frozen (R64). -/
def Core.newCycle (k : Core) : Core :=
  let clk := if k.is.frozen then k.is.clk else k.is.clk + 1
  let k := { k with sp := { k.sp with scrubLeft := k.sp.scrubLeft - 1 } }
  let k := if k.stn.endAt.any (fun t => decide (t ≤ clk)) then { k with stn := { k.stn with phase := 0, endAt := none } } else k
  let k := { k with is := { k.is with clk, tried := false, frozen := false, ports := [], landers := [], sensed := [], tok := 0 } }
  k.veWrites.foldl (fun k row => k.usePort true row 1) k

/-- A retirement that FV2 would start moving in this cycle waits for its last product (R93, R212): a hold of an engine
that runs on its own. -/
def Core.retireHeld (k : Core) : Bool :=
  k.fv2 && !k.is.frozen && match k.mx.retq, k.mx.moving with
    | r :: _, none =>
      let v := (aget Bank.init k.mx.banks r.bank).vis
      decide (k.mx.freeAt ≤ k.is.clk) && decide (v ≤ k.is.clk + 2) && decide (k.is.clk < v)
    | _, _ => false

/-- A core passes from one cycle to the next. The engines of a core that a halt has reached and a violation has stopped stop
with it (R35). -/
def State.coreCycle (s : State) (c : Nat) : State :=
  let cyc := s.cyc c
  let k := s.core c
  let refused := if k.is.granted then 0 else s.request k c (cyc - 1)
  let k := if k.retireHeld then k.bump rFv2Hold else k
  let s := s.setCore c (k.countTokens refused).newCycle
  let s := if k.halted && k.is.stopped then s.stopEngines c else s
  (s.mature c).extAcks c

/-! ### Grants (R362, R380) -/

/-- The cores of the bay in the meter's order; the total and each core's grant. -/
def meterGrants (ceil : Nat) : List (Nat × Nat) → Nat → List (Nat × Bool) → Nat × List (Nat × Bool)
  | [], total, acc => (total, acc)
  | (c, n) :: rest, total, acc =>
    if n == 0 || decide (total + n ≤ ceil) then meterGrants ceil rest (total + n) (acc ++ [(c, true)])
    else meterGrants ceil rest total (acc ++ [(c, false)])

/-- Sanding passes go on as far as headroom is left (R380): those on logical cores, lowest first, then those on spares; the
draw of a pass is Config.sandTokens (DESIGN CHOICE, log entry 18). -/
def State.sandCycle (s : State) (b total ceil : Nat) : State :=
  let on := (s.present b).filter fun c => (s.core c).sand.isSome
  let spares := (s.sand.spares.filter fun x => x.1 / 8 == b).map (·.1)
  let fits (i : Nat) : Bool := total + (i + 1) * Config.sandTokens ≤ ceil
  let go := (upto on.length).filter fits
  let s := go.foldl (fun s i => s.modCore (on.getD i 0) fun k => { k with sand := k.sand.map (· + 1) }) s
  let more := ((upto spares.length).filter fun i => fits (on.length + i)).map fun i => spares.getD i 0
  { s with sand := { s.sand with spares := s.sand.spares.map fun x => (x.1, if more.contains x.1 then x.2 + 1 else x.2) } }

/-- The meter's cycle: grants in rotor order, then the fills and copies of the granted cores write. -/
def State.meter (s : State) (b : Nat) : State :=
  let y := s.bay b
  let cs := s.present b
  let order := (cs.filter fun c => decide (y.rotor ≤ c % 56)) ++ cs.filter fun c => decide (c % 56 < y.rotor)
  let base := 56 + cs.foldl (fun n c => n + (s.core c).is.tok) 0
  let reqs := order.map fun c => (c, s.request (s.core c) c y.cyc)
  let g := meterGrants y.ceil reqs base []
  let s := g.2.foldl (fun s x => s.modCore x.1 fun k => { k with is := { k.is with granted := x.2 } }) s
  let s := s.setBay b { s.bay b with rotor := (y.rotor + 1) % 56 }
  let s := cs.foldl (fun s c => s.modCore c fun k => k.lmWrite y.cyc) s
  s.sandCycle b g.1 y.ceil

/-! ### Upsets and replica paths -/

/-- A soft error strikes a scratchpad row or a weight column (R85, R159), or hub storage: one bit, or two. Two bits of hub
storage are FATAL (R371, R373); they are found at once, and one bit is corrected (DESIGN CHOICE, log entry 78). -/
def State.upset (s : State) (b : Nat) (u : Upset) : State :=
  if u.unit == 3 then (if u.double then s.fatal evHubUe none [u.index % 16] 1 else s)
  else if u.core / 56 != b || decide (nCores ≤ u.core) || decide (8 ≤ u.group) then s
  else
    let hit (m : AMap Nat) (key : Nat) : AMap Nat := aput m key (if u.double || aget 0 m key != 0 then 2 else 1)
    let key := u.index * 8 + u.group
    s.modCore u.core fun k =>
      if u.unit == 1 && decide (u.index < nRows) then { k with sp := { k.sp with err := hit k.sp.err key } }
      else if u.unit == 2 && decide (u.index < 1024) then { k with mx := { k.mx with wsErr := hit k.mx.wsErr key } }
      else k

def State.region (s : State) (r : Nat) : Region := aget .init s.regions r
def State.setRegion (s : State) (r : Nat) (x : Region) : State := { s with regions := aput s.regions r x }

/-- Registers of region r (Table 15-6). -/
def rAcgStretch (r : Nat) : Nat := 0x300204 + 16 * r
def rAcgWarn (r : Nat) : Nat := 0x300208 + 16 * r

/-- The replica paths' margin in a cycle of region r (R360). -/
def State.replicaMargin (s : State) (r margin : Nat) : State :=
  let x := s.region r
  let s := s.setRegion r { x with margin := min x.margin margin, warn := x.warn + b2n (decide (margin < 15)) }
  if margin < 15 then s.bumpD (rAcgWarn r) else s

/-- One slot towards offset 8 (R359). -/
def towards8 (ofs : Nat) : Nat := if 8 < ofs then ofs - 1 else if ofs < 8 then ofs + 1 else ofs

/-- The crossing in a cycle of bay b: holds that R357 owes the bay, and one slot of a re-centring in each direction, which
holds the writer above offset 8 and the reader below it (R359). A held cycle of the spine takes a cycle of the bay (DESIGN
CHOICE, log entry 27). -/
def State.crossingCycle (s : State) (b : Nat) : State :=
  let x := aget Crossing.init s.xng b
  let on := x.recentre
  let n := if on then b2n (x.ofsIn != 8) + b2n (x.ofsOut != 8) else 0
  let pressed := decide (0 < x.outHold) || (on && decide (8 < x.ofsOut))
  let noBeat := decide (0 < x.inHold) || (on && decide (x.ofsIn < 8))
  let y : Crossing := { x with outHold := x.outHold - 1, inHold := x.inHold - 1 }
  let y := if on then { y with ofsIn := towards8 y.ofsIn, ofsOut := towards8 y.ofsOut } else y
  let y := { y with recentre := on && (y.ofsIn != 8 || y.ofsOut != 8) }
  let s := if n == 0 then s else { s with dregs := abump s.dregs (0x30100C + 16 * b) n }
  let s := { s with xng := aput s.xng b y }
  (s.present b).foldl (fun s c => s.modCore c fun k => { k with is := { k.is with pressed, noBeat } }) s

/-- The whole cycle of bay b. -/
def State.bayCycle (s : State) (b : Nat) (x : BayCycle) : State :=
  let cs := s.present b
  let s := cs.foldl (fun s c => s.engineRows c) s
  let s := s.setBay b { s.bay b with cyc := (s.bay b).cyc + 1 }
  let s := (cs.foldl (fun s c => s.coreCycle c) s).crossingCycle b
  let s := x.upsets.foldl (fun s u => s.upset b u) s
  let s := s.replicaMargin b x.margin
  let s := x.others.foldl (fun s y => if 32 ≤ y.1 && y.1 < 37 then s.replicaMargin y.1 y.2 else s) s
  s.meter b

/-- `TOKEN_METER_CYCLE` (R362). -/
def execTokenMeterCycle (b : Nat) (x : BayCycle) (s : State) : Res := onUnit (decide (b < nBays)) s fun s =>
  if s.clocked then s.bayCycle b x else s

end Sys2Proof.Machine
end

