-- ==== Sys2Proof/Machine/Registers.lean ====
section
/-!
DEFINITION. What each register reads (R20, R24, R41, R69 to R71, R99, R131, R154, R175, R207, R213, R251, R279, R318,
R353, R368, R386, R404, R425, R441, R451), one 32-bit word at a time. Write-only registers read 0.
-/

namespace Sys2Proof.Machine

/-- Word i of a wide value. -/
def word (v i : Nat) : Nat := (v >>> (32 * i)) % 2 ^ 32

/-! ### The window of a core (Table 03-13) -/

/-- `CORE_` registers (Tables 03-14, 09-3, 19-4). -/
def Core.coreRegs (k : Core) (off : Nat) : Option Nat :=
  if off == 0x8 then some (k.is.pcIndex % 2048 + b2n k.is.pcSrc <<< 11 + b2n k.is.pcDelay <<< 12)
  else if off == 0x0 || off == 0x4 || within off 0x10 0x18 || within off 0x20 0x28 || within off 0x40 0x5C ||
    off == rBmPage || off == rFv2Hold then some (k.reg off)
  else if within off 0x80 0x8C then some (k.lc ((off - 0x80) / 4)).toNat
  else if within off 0x100 0x17C then some (k.s ((off - 0x100) / 4)).toNat
  else if off == 0x60 || off == 0x214 || off == 0x220 then some 0
  else none

/-- MA_BANK n (Table 04-8). -/
def Core.bankReg (k : Core) (n : Nat) : Nat :=
  let b := aget Bank.init k.mx.banks n
  b.st % 4 + b2n b.int <<< 2 + b2n b.poison <<< 3 + ((aget Latch.init k.mx.latch (n / 2)).half % 2) <<< 4 +
    (b.phase % 32) <<< 5 + ((if b.phase == 0 then b.lastFmt else b.fmt) % 16) <<< 10 + (min b.blocks 2047) <<< 14

/-- `MA_` and `WS_` registers. -/
def Core.matRegs (k : Core) (off : Nat) : Option Nat :=
  if within off 0x1010 0x101C then some (k.bankReg ((off - 0x1010) / 4))
  else if off == rMaCtrl || within off 0x1020 0x1034 || within off 0x1100 0x1108 then some (k.reg off)
  else if off == 0x1038 || off == 0x110C then some 0
  else none

/-- VE_FTQ, and VE_POISON. -/
def Core.ftqReg (k : Core) : Nat :=
  join 8 ((upto 4).map fun e =>
    let x := aget FtqEntry.init k.mx.ftq e
    x.st % 4 + b2n x.int <<< 2 + b2n x.poison <<< 3 + (x.group % 16) <<< 4)

def Core.vecPoisonReg (k : Core) : Nat :=
  join 1 ((upto 32).map fun r => b2n (k.vPoisoned r)) + (join 1 ((upto 8).map fun r => b2n (k.mPoisoned r))) <<< 32

/-- `VE_` registers (Tables 05-8, 06-9). -/
def Core.vecRegsWord (k : Core) (off : Nat) : Option Nat :=
  if off == 0x1400 then some k.ftqReg
  else if off == 0x1404 then some (k.mx.head % 4)
  else if off == 0x1408 || off == 0x140C then some (word k.vecPoisonReg ((off - 0x1408) / 4))
  else if within off 0x1440 0x147C then some (word (k.m ((off - 0x1440) / 8)).toNat (off / 4 % 2))
  else if within off 0x1480 0x157C then some ((k.v (k.reg 0x1410)).getD ((off - 0x1480) / 4) 0#32).toNat
  else if off == 0x1410 || within off 0x1580 0x158C || within off 0x1700 0x1710 then some (k.reg off)
  else if off == 0x1590 then some 0
  else none

/-- CORE_STN_STATE, CORE_STN_IDX0 and CORE_STN_IDX1. -/
def Core.stnState (k : Core) : Nat :=
  k.stn.phase % 8 + b2n (k.stn.epis.any fun e => !e.window.isEmpty || !e.dry) <<< 3

def Core.stnIndex (k : Core) : Nat :=
  match k.stn.front with
  | some f => join 16 (f.it.take 6 ++ List.replicate (6 - f.it.length) 0 ++ [f.p])
  | none => 0

/-- Stencil registers (Table 08-11); while a front runs the descriptor words read as its descriptor (R207). -/
def Core.stnRegs (k : Core) (off : Nat) : Option Nat :=
  if within off 0x1800 0x19FC then
    some (match k.stn.front with | some f => word f.d ((off - 0x1800) / 4) | none => k.reg off)
  else if within off rStnEntry rStnViol then some (k.reg off)
  else if off == 0x1A00 then some k.stnState
  else if within off 0x1A08 0x1A14 then some (word k.stnIndex ((off - 0x1A08) / 4))
  else if off == 0x1A2C then some 0
  else none

/-- Panel table and `PNL_` registers (Table 02-9). -/
def Core.pnlRegs (k : Core) (off : Nat) : Option Nat :=
  let p := k.pnl
  if within off 0x2000 0x3FFC || within off rPnlLateCnt rPnlFloatPeak then some (k.reg off)
  else if off == 0x4000 then some (p.index % 256 + (p.phase % 8) <<< 8 + b2n p.late <<< 11)
  else if off == 0x4008 || off == 0x400C then some (word p.base ((off - 0x4008) / 4))
  else if off == 0x4010 || off == 0x4014 then some (word p.step ((off - 0x4010) / 4))
  else if off == 0x4018 then some (p.wraps % 2 ^ 32)
  else if off == 0x4020 || off == 0x4024 then some (word p.lastStart ((off - 0x4020) / 4))
  else if off == 0x4040 then some 0
  else none

/-- SP_LMQ. -/
def Core.lmqReg (k : Core) : Nat :=
  let n := k.lm.length
  n % 8 + b2n (n != 0) <<< 3 + (match k.lm with | o :: _ => o.lop % 16 | [] => 0) <<< 4

/-- `SP_` and `HT_` registers (Table 07-8). -/
def Core.spRegs (k : Core) (off : Nat) : Option Nat :=
  if off == rSpScrub then some (k.scrubInterval + (k.sp.scrubPos % nRows) <<< 16)
  else if off == 0x5004 then some k.lmqReg
  else if within off rSpCe rSpLmRows || within off 0x5800 0x5BFC then some (k.reg off)
  else if off == 0x5020 || off == 0x5024 then
    some (join 4 ((upto 8).map fun j => aget 0 k.sp.spare ((off - 0x5020) * 2 + j)))
  else if off == 0x5028 then some 0
  else if within off 0x5100 0x513C then
    some (join 2 ((upto 16).map fun j => k.segState ((off - 0x5100) * 4 + j)))
  else none

/-- SE_BIND n. -/
def Engine.bindReg (e : Engine) : Nat :=
  join 7 ((upto 8).map fun a => match e.handle a with | some h => h % 64 + 64 | none => 0)

/-- SE_STATE n. -/
def Core.seState (k : Core) (n cyc : Nat) : Nat :=
  let e := k.engine n
  k.engineState n cyc % 4 + b2n (e.wait.isSome || e.fence) <<< 2 + (e.pc % 32) <<< 3 + (k.tags n % 32) <<< 8 + (e.tagq % 32) <<< 13

/-- `SE_` registers (Table 10-7). -/
def Core.seRegs (k : Core) (cyc off : Nat) : Option Nat :=
  if within off 0x6000 0x63FC then some (k.reg off)
  else if within off 0x6400 0x647C then
    let n := (off - 0x6400) / 0x20
    let e := k.engine n
    let r := off % 0x20
    if r == 0 then some (k.seState n cyc)
    else if r == 4 then some (e.rate % 65536 + (e.burst % 256) <<< 16)
    else if r == 8 then some (e.bucket % 2 ^ 22)
    else some (k.reg off)
  else if within off 0x6500 0x65FC then
    some (word ((k.engine ((off - 0x6500) / 0x40)).arg (off % 0x40 / 8)) (off / 4 % 2))
  else if within off 0x6600 0x661C then some (word (k.engine ((off - 0x6600) / 8)).bindReg (off / 4 % 2))
  else if within off 0x6640 0x66BC then
    let l := (off - 0x6640) % 0x20 / 4
    if l < 6 then some ((k.engine ((off - 0x6640) / 0x20)).lpc l % 2 ^ 32) else none
  else if within off 0x66C0 0x66DC then
    let e := k.engine ((off - 0x66C0) / 8)
    some (if off % 8 == 0 then e.p0 % 2 ^ 32 else e.p1 % 2 ^ 32)
  else if off == 0x6700 then some (16 - k.openLines.length)
  else if off == rSeViol || off == rSePoison then some (k.reg off)
  else if off == 0x670C then some 0
  else none

/-- SEM_WAIT p; 0 when party p waits for nothing. -/
def Core.waitReg (k : Core) (p : Nat) : Nat :=
  match k.waitOf p with
  | some w => if w.stage == 1 then 0 else w.addr + (w.count % 2 ^ 32) <<< 64 + (w.since % 2 ^ 32) <<< 96
  | none => 0

/-- SEM_WSTAT. -/
def Core.waitsReg (k : Core) : Nat :=
  join 1 ((upto 7).map fun p => b2n (match k.waitOf p with | some w => w.stage != 1 | none => false))

/-- Q_STATE q and Q_SRC q. -/
def InQ.stateReg (q : InQ) : Nat :=
  q.msgs.length % 64 + (q.head % 32) <<< 6 + (match q.msgs with | m :: _ => m.length - 1 | [] => 0) <<< 11 +
    b2n q.closed <<< 13

def InQ.srcReg (q : InQ) : Nat :=
  match q.src with
  | some (c, r) => c % 2048 + (r % 8) <<< 11 + 1 <<< 14
  | none => 0

/-- RT_STATE r and Q_MBX_STATE m. -/
def Route.stateReg (r : Route) : Nat := r.st % 4 + (r.credit % 2 ^ 17) <<< 2 + (r.woff % 65536) <<< 19

def Mbx.stateReg (m : Mbx) : Nat := m.roff % 65536 + b2n m.closed <<< 16

/-- `SEM_`, `Q_` and `RT_` registers (Table 11-10). -/
def State.queueRegs (s : State) (c off : Nat) : Option Nat :=
  let k := s.core c
  let r := off % 0x20
  if within off 0x7000 0x71FC then some (s.semVal (ownSem c ((off - 0x7000) / 4))).toNat
  else if within off 0x7200 0x726C then some (word (k.waitReg ((off - 0x7200) / 16)) (off / 4 % 4))
  else if off == 0x7270 then some k.waitsReg
  else if off == rSemTimeout || off == rSemRetry || off == rQViol then some (k.reg off)
  else if within off 0x7300 0x73FC then
    let q := k.queue ((off - 0x7300) / 0x20)
    if r == 0 then some q.stateReg
    else if r == 4 || r == 8 then some (k.reg off)
    else if r == 12 then some q.srcReg
    else if within r 16 28 then some (word (aget 0 q.slots q.head) ((r - 16) / 4))
    else none
  else if within off 0x7400 0x74FC then
    let x := k.route ((off - 0x7400) / 0x20)
    if r == 0 || r == 4 || r == 16 || r == 20 then some (k.reg off)
    else if r == 8 || r == 12 then some (word x.stateReg ((r - 8) / 4))
    else none
  else if within off 0x7500 0x757C then
    if r == 0 || r == 4 || r == 12 || r == 16 then some (k.reg off)
    else if r == 8 then some (k.mbx ((off - 0x7500) / 0x20)).stateReg
    else none
  else if off == 0x7604 then some 0
  else none

/-- Byte of bundle memory that the aperture shows at an offset (R70). -/
def Core.bmByte (k : Core) (off : Nat) : Nat := 0x8000 * (k.reg rBmPage % 2) + (off - 0x8000)

/-- Word at an offset of core c's window; none where no chapter defines one (R69). -/
def State.coreWord (s : State) (c off : Nat) : Option Nat :=
  let k := s.core c
  if off < 0x1000 then k.coreRegs off
  else if off < 0x1400 then k.matRegs off
  else if off < 0x1800 then k.vecRegsWord off
  else if off < 0x2000 then k.stnRegs off
  else if off < 0x5000 then k.pnlRegs off
  else if off < 0x6000 then k.spRegs off
  else if off < 0x7000 then k.seRegs (s.cyc c) off
  else if off < 0x8000 then s.queueRegs c off
  else some (mnum k.bm (k.bmByte off) 4)

/-! ### The device window -/

/-- SCR_STATUS (Table 02-2). -/
def State.scrStatusReg (s : State) : Nat := 
  b2n s.scr.locked + b2n s.scr.alignErr <<< 1 + (if s.scr.locked then s.scr.refPort % 16 else 15) <<< 8

/-- SEQ_STATUS; its ERR stands in the register word (Table 13-8). -/
def State.seqStatusReg (s : State) : Nat := b2n s.expand.isSome + bits (s.dreg 0x30018) 1 1 <<< 1

/-- FAB_CFG (Table 14-9). -/
def State.fabCfgReg (s : State) : Nat :=
  s.fab.dims % 16 + b2n s.foldUsable <<< 4 + b2n s.fab.manOk <<< 5 +
    b2n (s.fab.manOk && s.fab.coord == s.fab.root) <<< 6 + (s.fab.coord % 4096) <<< 16

/-- FAB_PORT_STATE p. -/
def Port.stateReg (p : Port) : Nat :=
  p.st % 8 + (p.cls % 4) <<< 3 + (p.gen % 4) <<< 5 + (p.lanes % 32) <<< 7 + b2n (decide (p.spare < 16)) <<< 12 +
    (p.reason % 16) <<< 13

/-- `FAB_` registers. -/
def State.fabRegs (s : State) (off : Nat) : Option Nat :=
  if off == 0x200000 then some s.fabCfgReg
  else if off == 0x200008 || off == 0x20000C || within off 0x200018 0x20002C then some (s.dreg off)
  else if off == 0x200010 then some (s.fab.theta % 65536 + (s.fab.delay % 65536) <<< 16)
  else if off == 0x200014 then some (s.fab.inb % 2 ^ 15 + (s.fab.inbPeak % 2 ^ 15) <<< 16)
  else if off == 0x200030 then some 0
  else if within off 0x201000 0x20133C then
    let p := s.port ((off - 0x201000) / 0x40)
    let r := off % 0x40
    if r == 0 then some p.stateReg
    else if r == 4 then some (p.foundCoord % 4096 + (p.foundPort % 16) <<< 12)
    else if r == 8 then some (b2n p.disable)
    else if within r 12 24 || within r 0x20 0x2C then some (s.dreg off)
    else if r == 0x1C then some (p.lastLane % 32 + bits (s.dreg off) 15 8 <<< 8)
    else if r == 0x30 then some 0
    else none
  else none

/-- Bay ceiling in tokens for a cap (R361, Table 15-4): the bay's share in tokens of 20 mW, rounded down to 10. -/
def capCeiling (cap : Nat) : Nat := (100 * cap + 750) * 1000 / (32 * 20) / 10 * 10

/-- GOV_BAY b (Table 15-6). -/
def State.govBayReg (s : State) (b : Nat) : Nat :=
  let y := s.bay b
  y.step % 4 + (y.pstep.getD 0 % 4) <<< 2 + b2n y.pstep.isSome <<< 4 + (y.cause % 8) <<< 5 +
    ((s.region b).temp % 256) <<< 8 + (y.unacked.length % 64) <<< 16

/-- XNG_STAT b. -/
def Crossing.statReg (x : Crossing) : Nat :=
  x.ofsIn % 16 + (x.ofsOut % 16) <<< 4 + b2n x.plumbed <<< 8 + b2n x.fail <<< 9

/-- `GOV_`, `ACG_` and `XNG_` registers (Tables 15-6, 20-5). -/
def State.govRegs (s : State) (off : Nat) : Option Nat :=
  if off == 0x300004 then some (capCeiling (s.dreg 0x300000))
  else if off == 0x300000 || within off 0x300008 0x300014 || off == 0x300020 || off == 0x300024 then some (s.dreg off)
  else if off == 0x300018 || off == 0x300480 || off == 0x301200 then some 0
  else if within off 0x300100 0x30017C then some (s.govBayReg ((off - 0x300100) / 4))
  else if within off 0x300200 0x30044C then
    let x := s.region ((off - 0x300200) / 16)
    if off % 16 == 0 then some (x.fnow s.refCount % 65536 + (x.fmin % 65536) <<< 16)
    else if off % 16 == 12 then some (x.margin % 65536)
    else some (s.dreg off)
  else if within off 0x301000 0x3011FC then
    if off % 16 == 0 then some (aget Crossing.init s.xng ((off - 0x301000) / 16)).statReg else some (s.dreg off)
  else none

/-- SAND_MARCH (Table 16-9). -/
def State.marchReg (s : State) : Nat := b2n (s.sand.march != 0) <<< 3 + b2n s.sand.fail <<< 4

/-- PATCH_MAP b. -/
def State.patchMapReg (s : State) (b : Nat) : Nat := join 1 ((upto 64).map fun n => b2n (s.serves b n))

/-- `PATCH_` and `SAND_` registers. -/
def State.patchRegs (s : State) (off : Nat) : Option Nat :=
  if within off 0x400000 0x400010 || off == 0x410000 || within off 0x410008 0x410018 then some (s.dreg off)
  else if within off 0x400100 0x4001FC then some (word (s.patchMapReg ((off - 0x400100) / 8)) (off / 4 % 2))
  else if within off 0x400200 0x4002FC then some (word (aget 0 s.pat.out ((off - 0x400200) / 8)) (off / 4 % 2))
  else if off == 0x410004 then some s.marchReg
  else if off == 0x41001C then some 0
  else if within off 0x411000 0x4147FC then some (word (s.core ((off - 0x411000) / 8)).sandLast (off / 4 % 2))
  else none

/-- SEC_STATUS, SEC_TAMPER and SEC_CFG (Table 17-12). -/
def Sec.statusReg (x : Sec) : Nat :=
  b2n x.idk + b2n x.dtk <<< 1 + b2n x.owner.isSome <<< 2 + b2n x.zeroised <<< 3 + b2n x.debugOpen <<< 4 +
    b2n x.session.isSome <<< 5 + (x.boot % 16) <<< 8 + b2n x.primerB <<< 12 + b2n x.fwB <<< 13

def Sec.tamperReg (x : Sec) : Nat := x.tamper % 16 + (min x.trips 65535) <<< 16

/-- Fields of the owner record (Table 17-6). -/
def Sec.record (x : Sec) : Nat := (x.owner.getD 0#1088).toNat
def Sec.reqSigned (x : Sec) : Bool := bit x.record 512
def Sec.cpAuth (x : Sec) : Bool := bit x.record 513

def Sec.cfgReg (x : Sec) : Nat := b2n x.reqSigned + b2n x.cpAuth <<< 1

/-- Public keys; 0 once the pair is erased. -/
def Sec.idkPub (x : Sec) : Nat := if x.idk then Config.idkPub.toNat else 0
def Sec.dtkPub (x : Sec) : Nat := if x.dtk then Config.dtkPub.toNat else 0


/-- `SEC_` registers. -/
def State.secRegs (s : State) (off : Nat) : Option Nat :=
  let x := s.sec
  if off == 0x500000 then some x.statusReg
  else if off == 0x500004 then some x.tamperReg
  else if off == 0x500008 then some x.cfgReg
  else if within off 0x50000C 0x500018 then some (s.dreg off)
  else if off == 0x50001C || within off 0x500380 0x500404 || within off 0x5004A0 0x5004DC ||
    within off 0x500500 0x500570 then some 0
  else if within off 0x500100 0x5001DC then
    some (word (x.meas.getD ((off - 0x500100) / 32) 0#256).toNat (off % 32 / 4))
  else if within off 0x500200 0x50023C then some (word x.idkPub ((off - 0x500200) / 4))
  else if within off 0x500240 0x50027C then some (word x.dtkPub ((off - 0x500240) / 4))
  else if within off 0x500280 0x500304 then some (word x.record ((off - 0x500280) / 4))
  else if within off 0x500480 0x50049C then some (word x.chal.toNat ((off - 0x500480) / 4))
  else if within off 0x501000 0x5013FC then some (word Config.cert.toNat ((off - 0x501000) / 4))
  else none

/-- CP_STATE and CP_BOOT (Tables 18-10, 19-4). -/
def Ctl.stateReg (x : Ctl) : Nat := x.st % 8 + (x.img % 4) <<< 3 + (x.endCode % 8) <<< 5
def Ctl.bootReg (x : Ctl) : Nat := x.bootStep % 16 + b2n x.bootFail <<< 4 + (x.bootCause % 4) <<< 5

/-- ER_STATUS. -/
def Recorder.statusReg (r : Recorder) : Nat := b2n r.full + b2n r.frozen <<< 1

/-- `CP_` and `ER_` registers. -/
def State.cpRegs (s : State) (off : Nat) : Option Nat :=
  if off == 0x600000 then some s.ctl.stateReg
  else if within off 0x600004 0x600014 then some (s.dreg off)
  else if off == 0x600018 then some (s.ctl.lanes % 16)
  else if off == 0x60001C then some 0
  else if off == 0x600020 then some s.ctl.bootReg
  else if off == 0x600024 then some (s.ctl.bootMs % 2 ^ 32)
  else if off == 0x610000 then some s.er.statusReg
  else if off == 0x610004 then some (s.er.wptr % 2 ^ 21)
  else if off == 0x610008 then some (s.er.last % 2 ^ 20)
  else if off == 0x61000C then some s.er.records
  else if off == 0x610010 then some s.er.lost
  else if off == 0x610014 then some s.er.frozenCnt
  else none

/-- `SCR_` registers and SEM_WAIT_LIMIT. -/
def State.scrRegs (s : State) (off : Nat) : Option Nat :=
  if off == 0x1000 || off == 0x1004 then some (word s.scr.now ((off - 0x1000) / 4))
  else if off == 0x1008 || off == 0x100C || off == 0x1014 || off == 0x1018 || off == 0x1100 then some (s.dreg off)
  else if off == 0x1010 then some s.scrStatusReg
  else if off == 0x101C then some 0
  else none

/-- `HBM_`, `DDR_`, `WD_` and `SEQ_` registers (Tables 13-8, 19-4). -/
def State.memRegs (s : State) (off : Nat) : Option Nat :=
  if off == 0x10000 || off == 0x10004 || within off 0x10008 0x10018 || off == 0x10020 || off == 0x10024 ||
    off == 0x10040 || within off 0x10100 0x1012C || within off 0x12000 0x12008 || off == 0x12010 || off == 0x12014 ||
    off == 0x12020 || within off 0x20000 0x21FFC || off == 0x22010 || off == 0x30000 || off == 0x30004 ||
    off == 0x30008 || within off 0x3001C 0x30024 || within off 0x30040 0x30054 || within off 0x40000 0x43FFC ||
    within off 0x50000 0x5FFFC || within off 0x100000 0x1FFFFC then some (s.dreg off)
  else if off == 0x10030 || off == 0x12018 || off == 0x22000 || off == 0x22004 || off == 0x22014 || off == 0x30010 ||
    off == 0x30028 then some 0
  else if off == 0x22008 || off == 0x2200C then some (word (s.stepMin.getD 0) ((off - 0x22008) / 4))
  else if off == 0x30018 then some s.seqStatusReg
  else none

/-- Word at an offset of the device window; none where no chapter defines one. -/
def State.deviceWord (s : State) (off : Nat) : Option Nat :=
  if off < 0x10000 then s.scrRegs off
  else if off < 0x200000 then s.memRegs off
  else if off < 0x300000 then s.fabRegs off
  else if off < 0x400000 then s.govRegs off
  else if off < 0x500000 then s.patchRegs off
  else if off < 0x600000 then s.secRegs off
  else s.cpRegs off

/-- The word at an MMIO offset, a multiple of 4; none is out of bounds (R20, R69). -/
def State.mmioWord (s : State) (off : Nat) : Option Nat :=
  if off < 0x10000 * nCores then s.coreWord (off / 0x10000) (off % 0x10000)
  else if 0x10000000 ≤ off && off < 0x11000000 then s.deviceWord (off - 0x10000000)
  else none

end Sys2Proof.Machine
end

