-- ==== Sys2Proof/Machine/Directory.lean ====
section
/-!
DEFINITION. Writes from the control port: when they are carried, what an error answers; the Weight Directory (R303 to
R307): its entries and its flips.
-/

namespace Sys2Proof.Machine

/-! ### Register writes -/

/-- Codes of an error response (Table 18-2). -/
def eBounds : Nat := 1
def eSpace : Nat := 2
def eState : Nat := 3
def eAuth : Nat := 4
def eAlign : Nat := 5

/-- What a write comes to: the state after it, and the code of its error response. -/
abbrev Written := State × Option Nat

/-- The write acts. -/
def State.wrote (s : State) : Written := (s, none)

/-- The write receives an error response. -/
def State.refusedWith (s : State) (code : Nat) : Written := (s, some code)

/-- The device carries writes from the control port in this state (Table 18-6). -/
def State.portOpen (s : State) : Bool := decide (2 ≤ s.ctl.st) && !s.ctl.bootFail

/-- Global address of an MMIO offset of this device. -/
def State.mmioAddr (s : State) (off : Nat) : Nat := gaMake s.fab.coord spMmio off

/-- A write of its own row: carried, and answered with an error where it is refused. -/
def State.fromPort (s : State) (off : Nat) (f : State → Written) : State :=
  if !s.portOpen then s
  else match f s with
    | (t, none) => t
    | (t, some code) => t.send (.error code (t.mmioAddr off))

/-- A field that is writable only while the device is IDLE, LOADED or HALTED, outside the cores' windows (R71). -/
def State.limited (s : State) (f : State → State) : Written :=
  if s.writable then (f s).wrote else s.refusedWith eState

/-! ### Weight Directory -/

def rWdReject : Nat := 0x22010

/-- A write that R307 refuses. -/
def State.wdRefused (s : State) : Written := (s.bumpD rWdReject).refusedWith eState

/-- A write of WD_FLIP (R306, R307). -/
def State.flipWrite (s : State) (v : Nat) : Written :=
  let e := bits v 7 0
  let w := s.wd e
  if wdPend w then s.wdRefused
  else if s.ctl.st == stRunning then
    (s.setWd e (setBits (setBits w 169 169 1) 223 176 (bits v 55 8))).wrote
  else (s.setWd e (setBits w 168 168 (b2n (!wdSel w)))).wrote

/-- Entry w with word j written; SEL, PEND, FLIPSTEP and FLIPS are read-only. -/
def wdWord (w j v : Nat) : Nat :=
  if j ≤ 4 then setBits w (32 * j + 31) (32 * j) v
  else if j == 5 then setBits (setBits w 167 160 v) 171 170 (bits v 11 10)
  else w

/-- The fields that a running job reads: KIND, SIZE, the pointer of the copy that SEL names. -/
def wdInUse (w : Nat) : Nat × Nat × Nat := (wdKind w, wdSize w, if wdSel w then wdB w else wdA w)

/-- A write of a word of WD_ENTRY, at its offset in the device window (R307). -/
def State.wdWrite (s : State) (off v : Nat) : Written :=
  let e := (off - 0x20000) / 32
  let w := s.wd e
  let w' := wdWord w (off % 32 / 4) v
  if wdPend w || (s.ctl.st == stRunning && wdInUse w' != wdInUse w) then s.wdRefused
  else (s.setWd e w').wrote

/-- `WD_FLIP` (R306). -/
def execWdFlip (v : DWord) (s : State) : Res := .next (s.fromPort 0x10022000 fun s => s.flipWrite v.toNat)

/-- The flip of entry e is taken (R306). -/
def State.flipDone (s : State) (e : Nat) : State :=
  let w := s.wd e
  let w' := setBits (setBits (setBits w 168 168 (b2n (!wdSel w))) 169 169 0) 255 224 (satAdd 32 (wdFlips w) 1)
  (s.setWd e w').emit evWdFlipped none none ([e] ++ lohi (wdFlipStep w))

/-- `WD_FLIP_COMPLETE` (R306): WD_STEP_MIN has reached FLIPSTEP. -/
def execWdFlipComplete (e : Nat) (s : State) : Res := onUnit (decide (e < 256)) s fun s =>
  let w := s.wd e
  match wdPend w, s.stepMin with
  | true, some m => if wdFlipStep w ≤ m then s.flipDone e else s
  | _, _ => s

/-! ### Bytes of the memory tiers -/

/-- Bytes written to HBM or DDR5 from address a on, line by line; a part of a line is merged into it (R290). ecc is
what the controller finds in each. -/
def writeTier : Nat → State → Nat → List Byte → List EccFind → State
  | 0, s, _, _, _ => s
  | fuel + 1, s, a, bs, ecc =>
    let part := bs.take (512 - gaOff a % 512)
    if part.isEmpty then s
    else
      let s := if part.length == 512 then s.writeLine a part false else s.mergeWrite a part (ecc.headD .clean)
      writeTier fuel s (a + part.length) (bs.drop part.length) ecc.tail

def State.writeBytes (s : State) (a : Nat) (bs : List Byte) (ecc : List EccFind) : State :=
  writeTier (bs.length / 512 + 2) s a bs ecc

end Sys2Proof.Machine
end

