-- ==== Sys2Proof/Machine/Expander.lean ====
section
/-!
DEFINITION. The manifest expander (R308 to R316): the checks at SEQ_COMMIT, the sorted entries, tile steps, walk
records and gather entries, and the end of an expansion.
-/

namespace Sys2Proof.Machine

/-! ### Tables -/

def rManifest (b i : Nat) : Nat := 0x40000 + 0x2000 * b + 8 * i
def rGlaze (g : Nat) : Nat := 0x50000 + 16 * g
def rSeqEntry (n : Nat) : Nat := 0x100000 + 64 * n
def rSeqStatus : Nat := 0x30018
def rSeqSerial : Nat := 0x3001C
def rSeqBusy : Nat := 0x30020
def rSeqErr : Nat := 0x30024

/-- Manifest entry (R311). -/
def State.manEntry (s : State) (b i : Nat) : Nat := s.dreg64 (rManifest b i)
def meSeq (w : Nat) : Nat := bits w 13 0
def meNew (w : Nat) : Nat := bits w 23 14
def meEnd (w : Nat) : Bool := bit w 24

/-- Sequence entry (Table 13-6); its bits above 159 are reserved. -/
def State.sequence (s : State) (n : Nat) : Nat := join 32 ((upto 5).map fun j => s.dreg (rSeqEntry n + 4 * j))
def sqCtx (w : Nat) : Nat := bits w 7 0
def sqGlz (w : Nat) : Nat := bits w 19 8
def sqGen (w : Nat) : Bool := bit w 20
def sqState (w : Nat) : Nat := bits w 22 21
def sqLen (w : Nat) : Nat := bits w 47 24
def sqPmap (w : Nat) : Nat := bits w 127 64
def sqUser (w : Nat) : Nat := bits w 159 128

/-- Glaze table entry (Table 13-4). -/
def State.glaze (s : State) (g : Nat) : Nat := join 32 ((upto 3).map fun j => s.dreg (rGlaze g + 4 * j))
def gzCtx (w : Nat) : Nat := bits w 71 64
def gzValid (w : Nat) : Bool := bit w 79
def gzSlot (w : Nat) : Nat := bits w 87 80

/-- An entry of the manifest with the sequence entry that it names. -/
structure ManItem where
  seq : Nat
  new : Nat
  fin : Bool
  w : Nat
deriving DecidableEq, Repr

def State.manItem (s : State) (b i : Nat) : ManItem :=
  let m := s.manEntry b i
  ⟨meSeq m, meNew m, meEnd m, s.sequence (meSeq m)⟩

/-! ### Checks (R312) -/

/-- The check that an entry fails, numbered in the order of R312; seen lists the sequences before it, sum their
tokens. -/
def State.entryFault (s : State) (m : Nat) (seen : List Nat) (sum : Nat) : Option Nat :=
  let w := s.sequence (meSeq m)
  let kind := wdKind (s.wd (sqCtx w))
  let g := s.glaze (sqGlz w)
  if sqState w != 1 then some 1
  else if seen.contains (meSeq m) then some 2
  else if meNew m == 0 || m >>> 25 != 0 then some 3
  else if kind == 0 then some 4
  else if sqGen w && (kind == 2 || !gzValid g || gzCtx g != sqCtx w) then some 5
  else if sqLen w + meNew m > 2 ^ 24 - 1 then some 6
  else if sum + meNew m > 16384 then some 7
  else none

/-- The first entry from index i on that fails a check, with the check. -/
def State.manFault (s : State) (b : Nat) : Nat → Nat → List Nat → Nat → Option (Nat × Nat)
  | 0, _, _, _ => none
  | n + 1, i, seen, sum =>
    let m := s.manEntry b i
    match s.entryFault m seen sum with
    | some f => some (i, f)
    | none => s.manFault b n (i + 1) (meSeq m :: seen) (sum + meNew m)

/-- An expansion is abandoned (R312). -/
def State.abandon (s : State) (i check : Nat) : State :=
  ((s.bumpD rSeqErr).setDreg rSeqStatus 2).emit evSeqBad none (some clsViolation) [i + check <<< 12]

/-- A write of SEQ_COMMIT (R311, R312, R316). A count outside 1 to 1,024 names no manifest. -/
def State.commitWrite (s : State) (v : Nat) : Written :=
  let b := bits v 0 0
  let n := bits v 11 1
  if s.expand.isSome then (s.bumpD rSeqBusy).refusedWith eState
  else if n == 0 || n > 1024 then (s.abandon 0 0).wrote
  else match s.manFault b n 0 [] 0 with
    | some (i, f) => (s.abandon i f).wrote
    | none => ({ s with expand := some (b, n) } : State).wrote

/-- `SEQ_COMMIT` (R311). -/
def execSeqCommit (v : Word) (s : State) : Res := .next (s.fromPort 0x10030010 fun s => s.commitWrite v.toNat)

/-! ### Expansion (R313) -/

/-- Sort key: CTX, then GEN, then GLZ. -/
def ManItem.key (x : ManItem) : Nat := sqCtx x.w * 2 ^ 13 + b2n (sqGen x.w) * 2 ^ 12 + sqGlz x.w

/-- Stable insertion of an entry that comes before those of the list. -/
def insItem (x : ManItem) : List ManItem → List ManItem
  | [] => [x]
  | y :: ys => if x.key ≤ y.key then x :: y :: ys else y :: insItem x ys

/-- The manifest's entries in sorted order. -/
def State.manSorted (s : State) (b n : Nat) : List ManItem :=
  ((upto n).map (s.manItem b)).foldr insItem []

/-- A token: the context and the glaze it uses. -/
structure Tok where
  ctx : Nat
  glz : Option Nat
deriving DecidableEq, Repr

def ManItem.toks (x : ManItem) : List Tok :=
  List.replicate x.new ⟨sqCtx x.w, if sqGen x.w then some (sqGlz x.w) else none⟩

/-- Tile steps: up to 64 tokens of one context; cur holds the tokens of the step that is open. -/
def cutSteps : List Tok → List Tok → List (List Tok)
  | [], cur => if cur.isEmpty then [] else [cur]
  | t :: ts, cur =>
    if cur.length < 64 && (cur.all fun u => u.ctx == t.ctx) then cutSteps ts (cur ++ [t])
    else cur :: cutSteps ts [t]

/-- Walk record (Table 13-7). -/
def walkRecord (x : ManItem) (tok0 : Nat) : Nat :=
  x.seq + sqCtx x.w <<< 14 + sqGlz x.w <<< 22 + b2n (sqGen x.w) <<< 34 + b2n x.fin <<< 35 + sqLen x.w <<< 64 +
    x.new <<< 88 + (tok0 % 2 ^ 14) <<< 98 + sqPmap x.w <<< 128 + sqUser x.w <<< 192

/-- The walk records of entries whose first token is number t. -/
def walkRecords : List ManItem → Nat → List Byte
  | [], _ => []
  | x :: xs, t => toBytes 32 (walkRecord x t) ++ walkRecords xs (t + x.new)

/-! ### Gather entries (R314) -/

/-- The 12 template fields of SEQ_TPL0 to SEQ_TPL2. -/
def State.tpl (s : State) (n : Nat) : Nat :=
  bits (s.dreg64 (0x30040 + 8 * (n / 4))) (16 * (n % 4) + 15) (16 * (n % 4))

/-- Glazes of a tile step, rising. -/
def stepGlazes (ts : List Tok) : List Nat :=
  (ts.foldl (fun (m : AMap Bool) t => match t.glz with | some g => aput m g true | none => m) []).map (·.1)

/-- Mask of the tokens that use glaze g among the 32 tokens from position lo on. -/
def glazeMask (ts : List Tok) (lo g : Nat) : Nat :=
  join 1 ((upto 32).map fun i => b2n (match ts[lo + i]? with | some t => t.glz == some g | none => false))

/-- Glaze pass p of tile step j, 112 bits. -/
def State.passBits (s : State) (ts : List Tok) (j p g : Nat) : Nat :=
  let t0 := s.tpl 6 + j * s.tpl 7 + p * s.tpl 8
  let u := s.tpl 10 + gzSlot (s.glaze g) * s.tpl 11
  u % nRows + (t0 % nRows) <<< 14 + ((t0 + s.tpl 9) % nRows) <<< 28 + glazeMask ts 0 g <<< 42 + glazeMask ts 32 g <<< 74

/-- The passes of a tile step, numbered from p on. -/
def State.passList (s : State) (ts : List Tok) (j : Nat) : List Nat → Nat → List Nat
  | [], _ => []
  | g :: gs, p => s.passBits ts j p g :: s.passList ts j gs (p + 1)

/-- Entries of at most four passes each; CONT marks every entry but the last. -/
def entriesOf (base : Nat) : Nat → List Nat → List Nat
  | 0, _ => []
  | fuel + 1, ps =>
    let now := ps.take 4
    let rest := ps.drop 4
    (base + now.length <<< 56 + b2n (!rest.isEmpty) <<< 59 + join 112 now <<< 64) ::
      (if rest.isEmpty then [] else entriesOf base fuel rest)

/-- The gather entries of tile step j. -/
def State.stepEntries (s : State) (ts : List Tok) (j : Nat) : List Nat :=
  let a0 := s.tpl 0 + j * s.tpl 1
  let o0 := s.tpl 3 + j * s.tpl 4
  let base := a0 % nRows + ((a0 + s.tpl 2) % nRows) <<< 14 + (o0 % nRows) <<< 28 + ((o0 + s.tpl 5) % nRows) <<< 42
  entriesOf base 64 (s.passList ts j (stepGlazes ts) 0)

/-- The gather entries of every tile step, numbered from j on. -/
def State.gatherEntries (s : State) : List (List Tok) → Nat → List Nat
  | [], _ => []
  | ts :: rest, j => s.stepEntries ts j ++ s.gatherEntries rest (j + 1)

/-! ### Output and end (R314, R315) -/

/-- SEQ_CFG. -/
def State.doneSem (s : State) : Nat := bits (s.dreg 0x30008) 11 0
def State.genOn (s : State) : Bool := bit (s.dreg 0x30008) 12

/-- HBM offset of the output bank of the current expansion. -/
def State.outBank (s : State) : Nat := gaOff (s.dreg64 0x30000) + 524288 * (s.dreg rSeqSerial % 2)

/-- Bytes that lie in the HBM space are written there, from an HBM offset on. -/
def State.writeOut (s : State) (x : Nat) (bs : List Byte) : State :=
  if x + bs.length ≤ hbmSize then s.writeBytes (gaMake s.fab.coord spHbm x) bs [] else s

/-- The sequence of an entry advances. -/
def State.advance (s : State) (x : ManItem) : State :=
  let r := rSeqEntry x.seq
  let w := setBits x.w 47 24 (sqLen x.w + x.new)
  let w := if x.fin then setBits w 22 21 2 else w
  (s.setDreg r w).setDreg (r + 4) (w >>> 32)

/-- The outputs of an expansion, and its sequences' new state. -/
def State.expanded (s : State) (b n : Nat) : State :=
  let items := s.manSorted b n
  let toks := items.flatMap ManItem.toks
  let steps := cutSteps toks []
  let ents := if s.genOn then s.gatherEntries steps 0 else []
  let a := s.outBank
  let head := s.dreg rSeqSerial + toks.length <<< 32 + steps.length <<< 48 + ents.length <<< 64 + items.length <<< 80
  let s := s.writeOut a (toBytes 64 head)
  let s := s.writeOut (a + 0x1000) (walkRecords items 0)
  let s := s.writeOut (a + 0x10000) (ents.flatMap (toBytes 64))
  items.foldl State.advance s

/-- `SEQ_EXPANSION_DONE` (R315): the outputs are written and visible, SEQ_SERIAL counts, BUSY clears and the done
semaphore is posted. -/
def execSeqExpansionDone (s : State) : Res :=
  .next (match s.expand with
    | none => s
    | some (b, n) =>
      let s := s.expanded b n
      let s := { s with expand := none }
      let s := s.bumpD rSeqSerial
      s.toHome 1828 ⟨0, 9, none, 0x120000 + 4 * s.doneSem, 0, 1, 0, noSerial⟩)

/-- A sequence that the manifest under expansion names. -/
def State.expands (s : State) (seq : Nat) : Bool :=
  match s.expand with
  | some (b, n) => (upto n).any fun i => meSeq (s.manEntry b i) == seq
  | none => false

/-- A write that R316 refuses. -/
def State.seqRefused (s : State) : Written := (s.bumpD rSeqBusy).refusedWith eState

/-- Bits of a word of the glaze table and of a sequence entry that are not reserved. -/
def glazeBits (j : Nat) : Nat := if j ≤ 1 then 2 ^ 32 - 1 else if j == 2 then 2 ^ 28 - 1 else 0
def seqBits (j : Nat) : Nat :=
  if j == 0 then 0xFF7FFFFF else if j == 1 then 0xFFFF else if j ≤ 4 then 2 ^ 32 - 1 else 0

/-- Writes of the manifest, the glaze table and the sequence table (R311, R316). The manifest keeps reserved bits, which
R312 checks. -/
def State.seqTableWrite (s : State) (off v : Nat) : Written :=
  if off < 0x50000 then
    match s.expand with
    | some (b, _) => if (off - 0x40000) / 0x2000 == b then s.seqRefused else (s.setDreg off v).wrote
    | none => (s.setDreg off v).wrote
  else if off < 0x60000 then
    if s.expand.isSome then s.seqRefused else (s.setDreg off (v &&& glazeBits (off % 16 / 4))).wrote
  else if s.expands ((off - 0x100000) / 64) then s.seqRefused
  else (s.setDreg off (v &&& seqBits (off % 64 / 4))).wrote

end Sys2Proof.Machine
end

