-- ==== Sys2Proof/Machine/Ports.lean ====
section
/-!
DEFINITION. Fabric ports (R324 to R331, R347) and the exchange of screed time (R339 to R342, R351).
-/

namespace Sys2Proof.Machine

/-- Reasons of DISABLED (Table 14-9). -/
def rsUnlisted : Nat := 2
def rsMismatch : Nat := 3
def rsGen : Nat := 4
def rsTrainFail : Nat := 5
def rsLanes : Nat := 6
def rsControl : Nat := 7

/-- Counters of port p (Table 14-9). -/
def rPort (p r : Nat) : Nat := 0x201000 + 0x40 * p + r
def rReplay (p : Nat) : Nat := rPort p 0x0C
def rFecCe (p : Nat) : Nat := rPort p 0x10
def rFecUe (p : Nat) : Nat := rPort p 0x14
def rHbMiss (p : Nat) : Nat := rPort p 0x18
def rLane (p : Nat) : Nat := rPort p 0x1C

/-! ### The parent (R340) -/

/-- The fold port counts for time whenever it is ACTIVE at FFP-3. -/
def State.timeFold (s : State) : Bool := decide (2 ≤ s.fab.dims) && (s.port 12).up && (s.port 12).gen == 3

/-- Hops from coordinate a to b (R333). -/
def hops (fold : Bool) (n a b : Nat) : Nat :=
  let h := popcount (a ^^^ b)
  if fold then min h (n + 1 - h) else h

/-- The device is the time root. -/
def State.isRoot (s : State) : Bool := s.fab.manOk && s.fab.coord == s.fab.root

/-- The port leads to a LOCKED neighbour. -/
def State.timePort (s : State) (p : Nat) : Bool := (s.port p).up && (s.port p).nbrLocked

/-- The parent's port (R340): the fold port serves at FFP-3 only. -/
def State.parent (s : State) : Option Nat :=
  let f := s.timeFold
  let n := s.fab.dims
  let nearer (p : Nat) : Bool :=
    s.timePort p && (p != 12 || f) && decide (hops f n (s.port p).nbr s.fab.root < hops f n s.fab.coord s.fab.root)
  if s.isRoot || !s.fab.manOk then none
  else match nextPort f n s.fab.coord s.fab.root with
    | some p => if s.timePort p then some p else (upto nPorts).find? nearer
    | none => none

/-- The device takes the parent that R340 gives; without one it runs unlocked (R342). -/
def State.reparent (s : State) : State :=
  if s.isRoot then s
  else match s.parent with
    | some p => { s with scr := { s.scr with refPort := p } }
    | none => { s with scr := { s.scr with refPort := 15, locked := false, good := 0 } }

/-! ### Links come and go -/

/-- The port leaves service: no lanes, no generation, nothing at its output. -/
def Port.idle (x : Port) (st reason : Nat) : Port :=
  { x with st, reason, gen := 0, lanes := 0, spare := 31, nbrLocked := false, fec := [], txq := [] }

/-- A link is lost (R347, R348). Trained again, the port comes back into use at the next START. -/
def State.portDown (s : State) (p : Nat) (heartbeat : Bool) : State :=
  let x := s.port p
  let s := (s.setPort p { x.idle psDown 0 with again := x.up || x.again }).emit evPortDown none none [p + b2n heartbeat <<< 4]
  let s := s.reparent
  if x.up && x.nbr != s.fab.coord && s.inPartition x.nbr then s.raiseFault 6 0 p else s

/-- The port carries a signal: it is training, exchanging identities, ACTIVE, or in a lane repair. -/
def Port.alive (x : Port) : Bool := 1 ≤ x.st && x.st ≤ 4 || x.st == psRepair

/-- `PORT_SIGNAL_LOSS` (R347). -/
def execPortSignalLoss (p : Nat) (s : State) : Res := onUnit (decide (p < nPorts)) s fun s =>
  if (s.port p).alive then s.portDown p false else s

/-- `HEARTBEAT_TIMEOUT` (R347): each missing heartbeat counts, and after 40,000 tk the port goes DOWN. -/
def execHeartbeatTimeout (p : Nat) (s : State) : Res := onUnit (decide (p < nPorts)) s fun s =>
  let x := s.port p
  let missing := ((s.refCount : Int) - x.hbSeen).toNat / 10000
  if x.st != psActive then s
  else
    let s := { s with dregs := abump s.dregs (rHbMiss p) (missing - x.hbMissed) }
    let s := s.setPort p { x with hbMissed := max missing x.hbMissed }
    if 4 ≤ missing then s.portDown p true else s

/-- A write of FAB_PORT_CTRL (R325, Table 14-8). A write that would change DISABLE is refused outside IDLE, LOADED and
HALTED. -/
def State.portCtrlWrite (s : State) (p v : Nat) : Written :=
  let x := s.port p
  let d := bit v 0
  if d != x.disable && !s.writable then s.refusedWith eState
  else
    let y : Port :=
      if d then
        if x.disable then x else { x.idle psDisabled rsControl with disable := true }
      else if x.disable then
        if x.listed then { x.idle psDown 0 with disable := false } else { x with disable := false, reason := rsUnlisted }
      else x
    let again := bit v 1 && y.listed && !y.disable && (y.st == psDown || y.st == psDisabled)
    ((s.setPort p (if again then y.idle psDown 0 else y)).reparent).wrote

/-- `PORT_DISABLE` (R353). -/
def execPortDisable (p : Nat) (s : State) : Res := onUnit (decide (p < nPorts)) s fun s =>
  s.fromPort (0x10000000 + rPort p 8) fun s => s.portCtrlWrite p 1

/-- `RETRAIN` (R325): DISABLE keeps its value. -/
def execRetrain (p : Nat) (s : State) : Res := onUnit (decide (p < nPorts)) s fun s =>
  s.fromPort (0x10000000 + rPort p 8) fun s => s.portCtrlWrite p (2 + b2n (s.port p).disable)

/-! ### Training (R325 to R328, R350) -/

/-- `PORT_DETECT` (R325, R350): a signal takes the port to DETECT; once the neighbour's generation is known (gen is not 0)
it trains at the highest protocol that both ends support. -/
def execPortDetect (p gen : Nat) (s : State) : Res := onUnit (decide (p < nPorts)) s fun s =>
  let x := s.port p
  if (x.st != psDown && x.st != psDetect) || !x.listed || x.disable then s
  else
    let x := if x.st == psDown then { x with st := psDetect, detectAt := s.scr.ns } else x
    s.setPort p (if gen == 0 then x else { x with st := psTrain, gen := min gen 3 })

/-- Nanoseconds from DETECT within which training ends: 1 s on OPTICAL links, 500 ms on the others (R325). -/
def Port.trainLimit (x : Port) : Nat := if x.cls == 2 then 1000000000 else 500000000

/-- Training has not finished in time: the port is DISABLED with TRAIN_FAIL. -/
def State.trainFail (s : State) (p : Nat) : State := s.setPort p ((s.port p).idle psDisabled rsTrainFail)

/-- How many lanes of a half failed, lanes lo to lo + 7. -/
def halfBad (failed lo : Nat) : Nat := (upto 8).countP fun i => bit failed (lo + i)

/-- The lowest failed lane from lo on among n. -/
def firstBad (failed lo n : Nat) : Nat := lo + ((upto n).find? fun i => bit failed (lo + i)).getD 0

/-- Data lanes in use and the lane on the spare, for the lanes that failed (bit 16: the spare); none: no whole half
(R326, Table 14-7). -/
def trainedLanes (gen failed : Nat) : Option (Nat × Nat) :=
  let bad := (upto 16).countP fun i => bit failed i
  let spareOk := !bit failed 16
  if gen == 1 then (if failed % 2 ^ 4 == 0 then some (4, 31) else none)
  else if gen == 2 then (if failed % 2 ^ 8 == 0 then some (8, 31) else none)
  else if bad == 0 then some (16, if spareOk then 31 else 30)
  else if bad == 1 && spareOk then some (16, firstBad failed 0 16)
  else if halfBad failed 0 == 0 || halfBad failed 8 == 0 then some (8, if spareOk then 31 else 30)
  else if spareOk && halfBad failed 0 == 1 then some (8, firstBad failed 0 8)
  else if spareOk && halfBad failed 8 == 1 then some (8, firstBad failed 8 8)
  else none

/-- A lane is steered onto the spare: FAB_PORT_LANE counts it. -/
def State.countRepair (s : State) (p : Nat) : State :=
  s.setDreg (rLane p) (satAdd 8 (bits (s.dreg (rLane p)) 15 8) 1 <<< 8)

/-- `PORT_TRAIN_DONE` (R326). -/
def execPortTrainDone (p failed : Nat) (s : State) : Res := onUnit (decide (p < nPorts)) s fun s =>
  let x := s.port p
  if x.st != psTrain then s
  else if x.detectAt + x.trainLimit < s.scr.ns then s.trainFail p
  else match trainedLanes x.gen failed with
    | none => s.setPort p (x.idle psDisabled rsLanes)
    | some (n, l) =>
      let y := { x with st := psIdent, lanes := n, spare := l }
      if l < 16 then (s.setPort p { y with lastLane := l }).countRepair p else s.setPort p y

/-- `TRAIN_TIMEOUT` (R325). -/
def execTrainTimeout (p : Nat) (s : State) : Res := onUnit (decide (p < nPorts)) s fun s =>
  let x := s.port p
  if 1 ≤ x.st && x.st ≤ 3 && decide (x.detectAt + x.trainLimit ≤ s.scr.ns) then s.trainFail p else s

/-- `PORT_IDENT` (R331): the neighbour is compared with the manifest. -/
def execPortIdent (p : Nat) (id : NeighbourId) (s : State) : Res := onUnit (decide (p < nPorts)) s fun s =>
  let x := s.port p
  let same := id.devid == x.nbrId && id.coord == x.nbr && id.port == x.nbrPort
  if x.st != psIdent then s
  else if x.detectAt + x.trainLimit < s.scr.ns then s.trainFail p
  else
    let x := { x with foundCoord := id.coord % 4096, foundPort := id.port % 16 }
    if same && id.gen == x.nbrGen then
      let s := s.setPort p { x with
        st := psActive, hbSeen := s.refCount, hbMissed := 0, hbSent := s.refCount, txBytes := 0, rxBytes := 0, link := none }
      { s with fab := { s.fab with upAt := s.scr.ns } }
    else
      (s.setPort p { x.idle psDisabled (if same then rsGen else rsMismatch) with
        foundCoord := x.foundCoord, foundPort := x.foundPort }).emit evPortMismatch none none
          [p + (id.coord % 4096) <<< 4]

/-- Virtual channel of an opcode (R335): 0 REQ, 1 RSP, 2 LNK. -/
def channelOf (op : Nat) : Nat := if 1 ≤ op && op ≤ 5 then 0 else if 0x21 ≤ op && op ≤ 0x26 then 1 else 2

def Out.channel : Out → Nat
  | .fabric _ op _ _ _ _ _ _ _ _ _ => channelOf op
  | .transit _ op _ _ _ _ => channelOf op
  | _ => 2

/-- The transactions that wait at the output of port p leave, channel by channel (LNK, RSP, REQ: DESIGN CHOICE, log entry
109), each channel in the order of its arbitration point (R335, R343). -/
def State.drainPort (p : Nat) : Nat → State → State
  | 0, s => s
  | n + 1, s =>
    let q := (s.port p).txq
    match [2, 1, 0].find? fun v => q.any fun x => x.2.2.channel == v with
    | none => s
    | some v =>
      let mine (x : Nat × Nat × Out) : Bool := x.2.2.channel == v
      let req (l : List (Nat × Nat × Out)) : List Req := (l.map fun x => (x.1, s.portWeight p x.1)).dedup
      let pt := 80 + 3 * p + v
      match s.arbPick pt (req (q.filter mine)) with
      | none => s
      | some g =>
        match takeFirst (fun x => mine x && x.1 == g) q with
        | none => s
        | some ((_, bytes, o), rest) =>
          let s := s.arbSend pt g ((bytes + 63) / 64) (req (q.filter mine)) (req (rest.filter mine))
          State.drainPort p n ((s.setPort p { s.port p with txq := rest }).leave p bytes o)

/-- Symbols that port x corrected on a lane in the millisecond that ends at t (R327). -/
def Port.corrected (x : Port) (t lane : Nat) : Nat :=
  ((x.fec.filter fun y => decide (t < y.1 + 1000000) && y.2.1 == lane).map fun y => y.2.2).sum

/-- `LANE_REPAIR` (R327, Table 14-9): on an ACTIVE port the FEC has corrected symbols on a lane, in so many codewords; a lane
that is degraded goes onto a free spare, and the port enters REPAIR. On a port in REPAIR the repair ends: it is ACTIVE again
and what waited leaves. Lane 16 is the spare. -/
def execLaneRepair (p : Nat) (f : LaneFec) (s : State) : Res :=
  onUnit (decide (p < nPorts) && decide (f.lane < 17)) s fun s =>
    let x := s.port p
    if x.st == psRepair then
      let s := ((s.setPort p { x with st := psActive }).countRepair p).emit evLaneRepair none (some clsCorrected)
        [p + x.lastLane <<< 4]
      s.drainPort p x.txq.length
    else if x.st != psActive then s
    else
      let s := { s with dregs := abump s.dregs (rFecCe p) f.codewords }
      let x := { x with fec := (x.fec.filter fun y => decide (s.scr.ns < y.1 + 1000000)) ++ [(s.scr.ns, f.lane, f.symbols)] }
      if 65536 < x.corrected s.scr.ns f.lane && x.gen == 3 && x.spare == 31 && decide (f.lane < 16) then
        s.setPort p { x with st := psRepair, spare := f.lane, lastLane := f.lane, fec := [] }
      else s.setPort p x

/-- `GROUP_REPLAY` (R328, R346): kind 0 CRC, 1 an uncorrectable codeword, 2 GCM. -/
def execGroupReplay (p kind : Nat) (s : State) : Res :=
  onUnit (decide (p < nPorts) && decide (kind < 3)) s fun s =>
    if (s.port p).st != psActive then s
    else
      let s := s.bumpD (rReplay p)
      if kind == 1 then s.bumpD (rFecUe p) else s

/-! ### Screed time -/

/-- The boot is over (step 14 of Table 19-1); how long it took comes with the boot (log entry 7). -/
def State.bootDone (s : State) : State :=
  let ms := match s.pat.env with | some x => x.ms | none => 0
  ({ s with ctl := { s.ctl with st := stIdle, bootStep := 15, bootMs := ms } } : State).emit evState none none
    [s.ctl.st + stIdle <<< 3]

/-- LOCKED becomes 1; a device that waits in step 13 enters IDLE (R433). -/
def State.lock (s : State) : State :=
  let s := { s with scr := { s.scr with locked := true } }
  if s.ctl.st == stBooting && s.ctl.bootStep == 13 then s.bootDone else s

/-- Durations in ticks that are under way pass to screed time, which begins at t (R11; DESIGN CHOICE, log entry 107). -/
def State.rebase (s : State) (t : Nat) : State :=
  let d : Int := (t : Int) - s.scr.ns
  let s := s.windowsTo t
  { s with
    fab := { s.fab with ports := s.fab.ports.map fun x => (x.1, { x.2 with hbSeen := x.2.hbSeen + d, hbSent := x.2.hbSent + d }) }
    regions := s.regions.map fun x => (x.1, { x.2 with freqs := x.2.freqs.map fun f => (f.1 + d, f.2) })
    ctl := { s.ctl with busy := s.ctl.busy.map (toCount s.scr.ns t) } }

/-- The counter takes its starting value (R342). -/
def State.startCounter (s : State) (t : Nat) : State :=
  let s := s.rebase t
  ({ s with scr := { s.scr with now := t % 2 ^ 64, running := true }, sand := { s.sand with since := t } } : State).lock

/-- Generation of the device at coordinate y (R329). -/
def State.genOf (s : State) (y : Nat) : Nat := aget 3 s.fab.gens y

/-- Per-hop bound of Table 14-7 in 1/16 tk, for the lower generation of the two ends (DESIGN CHOICE for two ends that are
both older, log entry 74). -/
def State.hopBound (s : State) (a b : Nat) : Nat :=
  match min (s.genOf a) (s.genOf b) with
  | 3 => 2
  | 2 => 128
  | _ => 640

/-- Devices of the parent chain from device a on to the root, by the rule of R333. -/
def State.chainFrom (s : State) (fold : Bool) : Nat → Nat → List Nat
  | 0, a => [a]
  | n + 1, a =>
    match nextPort fold s.fab.dims a s.fab.root with
    | none => [a]
    | some o => a :: s.chainFrom fold n (if o == 12 then a ^^^ (2 ^ s.fab.dims - 1) else a ^^^ 2 ^ o)

/-- The parent chain of this device: its first hop leaves through REF_PORT; the further hops are those that R333 gives the
other devices, whose ports this device does not know (DESIGN CHOICE, log entry 74). -/
def State.parentChain (s : State) : List Nat :=
  let first := if s.scr.refPort < nPorts then (s.port s.scr.refPort).nbr else s.fab.coord
  let rest := s.chainFrom s.timeFold 12 first
  if s.scr.refPort < nPorts then s.fab.coord :: rest else rest

/-- Sum of the per-hop bounds along a chain. -/
def State.chainBound (s : State) : List Nat → Nat
  | a :: b :: l => s.hopBound a b + s.chainBound (b :: l)
  | _ => 0

/-- Bound of |θ| in 1/16 tk (R22, R351): 2 tk on an all-FFP-3 chain of at most 6 hops that has its fold links; otherwise twice
the sum of the per-hop bounds plus 0.5 tk. A machine too small for a fold port has none of those links (DESIGN CHOICE, log
entry 74). -/
def State.alignLimit (s : State) : Nat :=
  let l := s.parentChain
  if s.timeFold && decide (l.length ≤ 7) && s.chainBound l == 2 * (l.length - 1) then 32 else 2 * s.chainBound l + 8

/-- The offset lies outside the bound (R22). -/
def State.noteAlign (s : State) (th : Int) : State :=
  if s.scr.locked && decide (s.alignLimit < th.natAbs) then
    (({ s with scr := { s.scr with alignErr := true } } : State).bumpD 0x1014).emit evScrAlign none none
      [wrapInt 32 th]
  else s

/-- Local time of an arrival in 1/16 tk (R339). -/
def State.localTime (s : State) (h : HeartbeatIn) : Nat := 16 * s.scr.now + h.frac % 16

/-- An exchange with the parent or, before the first lock, with the neighbour that the time root follows: θ and δ in
1/16 tk, the first lock or the correction, the count toward LOCKED (R21, R339, R342). Before the first lock the local times
are those of the counter as it stands, 0 (DEDUCED, log entry 110). -/
def State.exchange (s : State) (h : HeartbeatIn) : State :=
  let out : Int := (s.localTime h : Int) - h.t1
  let back : Int := (h.t4 : Int) - h.t3
  let th := (out - back) / 2
  let de := (out + back) / 2
  let s := { s with fab := { s.fab with theta := wrapInt 16 th, delay := wrapInt 16 de } }
  if !s.scr.running then s.startCounter (((h.t1 : Int) + de) / 16).toNat
  else if s.isRoot then s
  else
    let good := if th.natAbs ≤ 8 then s.scr.good + 1 else 0
    let s := { s with scr := { s.scr with slew := -((th + 8) / 16), good } }
    let s := if 16 ≤ good then s.lock else s
    s.noteAlign th

/-- The time root still seeks a LOCKED neighbour: 50 ms from its ports reaching ACTIVE (R342). -/
def State.rootSeeks (s : State) : Bool := s.isRoot && !s.scr.running && decide (s.scr.ns < s.fab.upAt + 50000000)

/-- A heartbeat from port p is one that the device disciplines itself by. -/
def State.heeds (s : State) (p : Nat) : Bool :=
  if s.isRoot then s.rootSeeks && (upto nPorts).find? s.timePort == some p
  else s.parent == some p

/-- `HEARTBEAT` (R339). -/
def execHeartbeat (p : Nat) (h : HeartbeatIn) (s : State) : Res := onUnit (decide (p < nPorts)) s fun s =>
  let x := s.port p
  if x.st != psActive then s
  else
    let s := (s.addD64 (rPortRx p) 32).setPort p
      { x with rxBytes := x.rxBytes + 32, hbT1 := h.t1, hbT4 := s.localTime h, hbSeen := s.refCount, hbMissed := 0, nbrLocked := h.locked }
    let s := s.reparent
    if h.echo && s.heeds p then s.exchange h else s

/-- `HEARTBEAT_SEND` (R339): t1, the echo of the last heartbeat received, and LOCKED; no PID and no EPOCH (R345). -/
def execHeartbeatSend (p : Nat) (s : State) : Res := onUnit (decide (p < nPorts)) s fun s =>
  let x := s.port p
  if x.st != psActive || decide ((s.refCount : Int) < x.hbSent + 10000) then s
  else
    let s := s.setPort p { x with hbSent := s.refCount }
    s.portOut p 0 32
      (.fabric p 0x40 s.fab.coord x.nbr 0 (16 * s.scr.now) 0 0 [] false [b2n s.scr.locked, x.hbT1, x.hbT4])

/-- `ROOT_TIME_START` (R342): no neighbour was LOCKED for 50 ms. -/
def execRootTimeStart (s : State) : Res :=
  .next (if s.clocked && s.isRoot && !s.scr.running && decide (s.fab.upAt + 50000000 ≤ s.scr.ns) then s.startCounter 1
    else s)

end Sys2Proof.Machine
end

