-- ==== Sys2Proof/Machine/Reset.lean ====
section
/-!
DEFINITION. What the resets and LOAD clear (R41, R70, R88, R99, R131, R154, R172, R175, R207, R225, R251, R254, R279,
R435 to R439), and the halt of a job (R35, R372, R437).
-/

namespace Sys2Proof.Machine

/-! ### A core -/

/-- Register words of a core that keep what was written through LOAD: CORE_CTRL, CORE_ENTRY, CORE_BM_PAGE, MA_CTRL, VE_VSEL, the
panel table, SP_SCRUB and the last error rows, the stream programs, RT_CFG and Q_MBX_CFG. -/
def keptAtLoad (off : Nat) : Bool :=
  off == rCoreCtrl || off == rCoreEntry || off == rBmPage || off == rMaCtrl || off == 0x1410 || within off 0x2000 0x3FFF ||
    off == rSpScrub || off == rSpCeRow || off == rSpUeRow || within off 0x6000 0x63FF ||
    (within off 0x7400 0x757F && off % 0x20 < 8)

/-- Register words that a core reset clears: the CORE_ counters and fault registers (R70, R207, R213), the stencil
registers (R207) and the VE_ counters (R154). -/
def clearedAtReset (off : Nat) : Bool :=
  within off rFaultAddr 0x5F || off == rFv2Hold || within off rStnDesc rStnViol || within off rVeIssue rVeViol

/-- Latches of an array after reset (R88): scales 2^0, half 0; the array's timing goes on. -/
def Latch.cleared (l : Latch) : Latch := { Latch.init with last := l.last }

/-- A core with everything a core reset clears (R438) cleared; what is under way has landed. -/
def Core.cleared (k : Core) : Core :=
  { k with
    regs := k.regs.filter fun r => !clearedAtReset r.1
    sc := .init
    is := { Issue.init with clk := k.is.clk, serial := k.is.serial, eligible := k.is.clk }
    mx := { MatUnit.init with ws := k.mx.ws, wsPoison := k.mx.wsPoison, wsErr := k.mx.wsErr,
                              latch := k.mx.latch.map fun l => (l.1, l.2.cleared), freeAt := k.mx.freeAt }
    ve := .init
    lm := []
    readers := []
    inflight := []
    se := []
    lines := []
    stn := .init
    sync := []
    mbOut := []
    sand := none }

/-- Every effect under way becomes visible: operations already issued complete (R412). -/
def State.landAll (s : State) (c : Nat) : State :=
  let l := (s.core c).inflight
  let s := s.modCore c fun k => { k with inflight := [] }
  (l.foldl (fun l d => insRank d l) []).foldl (fun s d => s.land c d.eff) s

/-- Core reset (R438). -/
def State.coreReset (s : State) (c : Nat) : State :=
  let s := ((s.abortPass c).stopEngines c).closeInbound c
  let s := (s.withdraw fun d _ => d == c).landAll c
  s.modCore c Core.cleared

/-- A core reset of every logical core. Cores that no entry lists have nothing under way and feed nothing. -/
def State.resetCores (s : State) : State :=
  let s := s.cores.foldl (fun s x => s.coreReset x.1) s
  { s with dflt := s.dflt.cleared }

/-- The clearings of LOAD in one core (R41, R131, R172, R175, R207, R251, R279); PNL_STEP stays.
Queues and mailboxes stay closed, as the core reset leaves them, until START opens them (R268, R271). -/
def Core.loadCleared (k : Core) : Core :=
  { k with
    regs := k.regs.filter fun r => keptAtLoad r.1
    sp := { k.sp with seg := [] }
    pnl := { Panel.init with step := k.pnl.step }
    qs := (upto 8).map fun q => (q, { InQ.init with closed := true })
    rts := []
    mbs := (upto 4).map fun m => (m, { Mbx.init with closed := true })
    halted := false }

/-- Registers of the device window that LOAD clears: the counters of Tables 02-2, 13-8, 14-9 and 15-6. -/
def clearedAtLoad (off : Nat) : Bool :=
  off == 0x1014 || within off 0x1000C 0x1001B || within off 0x10100 0x1012F || within off 0x12004 0x1200B ||
    off == 0x22010 || within off 0x3001C 0x30027 || within off 0x200018 0x20002F ||
    within off 0x300010 0x300017 || (within off 0x300200 0x30044F && off % 16 != 0 && off % 16 != 12) ||
    (within off 0x301000 0x3011FF && off % 16 != 0)

/-- SCR_JOB_EPOCH holds until the next LOAD (R23). Every clearing that the chapters assign to LOAD. -/
def State.loadClear (s : State) : State :=
  let s := (s.resetCores).mapCores Core.loadCleared
  let s := { s with dregs := s.dregs.filter fun r => !clearedAtLoad r.1, sem := [], semIn := [], semLate := [], semAns := [],
                    fab := { s.fab with inbPeak := s.fab.inb },
                    sec := { s.sec with partKey := false, linkKeys := false } }
  let s := s.setDreg64 0x1008 0
  { s with fab := { s.fab with weights := s.fabWeights } }

/-! ### Device states -/

/-- The device enters a state (Tables 18-4, 18-9). -/
def State.enter (s : State) (st cmd : Nat) : State :=
  ({ s with ctl := { s.ctl with st } } : State).emit evState none none [s.ctl.st + st <<< 3 + cmd <<< 6]

/-- Pending flips are cancelled when the device leaves RUNNING (R306). -/
def State.cancelFlips (s : State) : State :=
  (upto 256).foldl (fun s e =>
    let w := s.wd e
    if wdPend w then
      (s.setWd e (setBits w 169 169 0)).emit evWdFlipped none none ([e + 256] ++ lohi (wdFlipStep w))
    else s) s

/-- Every wait parked at this device's homes is withdrawn, those of other devices too (R437). -/
def State.withdrawParked (s : State) : State :=
  let n := (s.semPark.map fun x => (x.2.filter fun m => m.rem.isSome).length).foldl (· + ·) 0
  let s := s.withdraw fun _ _ => true
  { s with semPark := [], fab := { s.fab with inb := s.fab.inb - n } }

/-- Job reset (R437). -/
def State.jobReset (s : State) : State :=
  let s := s.cores.foldl (fun s x => s.closeInbound x.1) s
  let shut (k : Core) : Core :=
    { k with qs := (upto 8).map fun q => (q, { k.queue q with closed := true }),
             mbs := (upto 4).map fun m => (m, { k.mbx m with closed := true }) }
  let s := { s with dflt := shut s.dflt }
  let s := s.withdrawParked
  { s with sec := { s.sec with partKey := false, linkKeys := false } }

/-- The core counts as halted in cycle cyc of its bay (R372). -/
def Core.atRest (k : Core) (cyc : Nat) : Bool :=
  (k.pnl.phase == 3 || k.pnl.phase == 4 || k.is.stopped) && (k.se.all fun e => k.engineState e.1 cyc == 0) &&
    k.lm.isEmpty

/-- Every logical core counts as halted. -/
def State.atRest (s : State) : Bool :=
  (s.cores.all fun x => x.2.atRest (s.cyc x.1)) && (decide (nCores ≤ s.cores.length) || s.dflt.atRest 0)

/-- The request has been answered, or its deadline has passed (R265, R372). -/
def FabReq.settled (r : FabReq) (now : Nat) : Bool := r.kind == 1 && decide (r.deadline + 100000 ≤ now)

/-- The halt, or the end of every program, is complete (R372). -/
def State.haltDone (s : State) : Bool :=
  s.ctl.st == stRunning && (s.ctl.halt || s.allCores fun k => k.pnl.phase == 3) && s.atRest &&
    s.fab.reqs.all fun r => r.settled s.scr.now

/-- END of Table 18-7. -/
def State.endCode (s : State) : Nat :=
  if s.ctl.fault.isSome then 4 else if s.ctl.haltBy == 0 then 3 else s.ctl.haltBy

/-- The device leaves RUNNING (R372, R414). -/
def State.endJob (s : State) : State :=
  let e := s.endCode
  let s := s.cancelFlips.emit evHaltDone none none [e]
  let s := { s with ctl := { s.ctl with endCode := e, halt := false, haltBy := 0 } }
  if e == 4 then (s.jobReset).enter stFaulted 0 else s.enter stHalted 0

/-- `HALT_COMPLETE` (R372). -/
def execHaltComplete (s : State) : Res := .next (if s.haltDone then s.endJob else s)

/-- The halt has reached a core (R35): inside a panel it is remembered; at a boundary the engines stop, a wait for a
start condition ends, and the core is HALTED unless its program has ended or it is stopped (a stopped core's PHASE keeps
its value, R33). -/
def State.coreHalt (s : State) (c : Nat) : State :=
  let k := s.core c
  if k.pnl.phase == 2 && !k.is.stopped then s.modCore c fun k => { k with halted := true }
  else
    let s := (s.abortPass c).stopEngines c
    let s := s.withdraw fun d p => d == c && p == 1
    s.modCore c fun k =>
      { k with halted := true,
               pnl := { k.pnl with wait := none, phase := if k.pnl.phase == 1 && !k.is.stopped then 4 else k.pnl.phase } }

/-- `CORE_HALT` (R35). -/
def execCoreHalt (c : Nat) (s : State) : Res := onCore c s fun s =>
  if s.ctl.st == stRunning && s.ctl.halt then s.coreHalt c else s

end Sys2Proof.Machine
end

