-- ==== Sys2Proof/Machine/Sanding.lean ====
section
/-!
DEFINITION. Sanding passes (R379 to R383) and the memory march (R384).
-/

namespace Sys2Proof.Machine

def rSandPass : Nat := 0x410008
def rSandSkip : Nat := 0x410010
def rSandFind : Nat := 0x410014
def rSandOverdue : Nat := 0x410018

/-- SAND_CFG. -/
def State.sandSpare (s : State) : Bool := bit (s.dreg 0x410000) 0
def State.sandActive (s : State) : Bool := bit (s.dreg 0x410000) 1

/-- A core under test: logical core c below 1,792; spare j of bay b as 1,792 + 8b + j. -/
def spareBay (c : Nat) : Nat := (c - nCores) / 8
def isSandUnit (c : Nat) : Bool := decide (c < nCores + 256)

/-- The physical cores of a bay that are good and serve no logical core. -/
def State.spareCores (s : State) (b : Nat) : List Nat := (goodCores (aget 0 s.pat.out b)).drop 56

/-- Nothing of a panel occupies the arrays, the finished-tile queue or the vector engine (R381). -/
def Core.sandable (k : Core) : Bool :=
  (k.mx.banks.all fun b => b.2.st == 0) && (k.mx.ftq.all fun e => e.2.st == 0) &&
    !(k.inflight.any fun d => match d.eff with
      | .vreg _ _ _ _ => true
      | .mreg _ _ _ _ _ => true
      | .row 1 _ _ _ => true
      | .rowPart 1 _ _ _ => true
      | .sreg _ _ => d.sub == 3
      | _ => false)

/-- Ticks that a pass needs before the successor's planned start (R381). -/
def State.passTicks (s : State) (c : Nat) : Nat :=
  let f := fplan (s.bay (bayOf c)).step
  (82000000 + f - 1) / f + 500

/-- Ticks to the planned start of the core's next panel. -/
def State.remaining (s : State) (c : Nat) : Nat :=
  let k := s.core c
  s.planned k.pnl (k.pdesc k.pnl.index) - s.scr.now

/-- A pass begins on a logical core. -/
def State.beginPass (s : State) (c : Nat) : State :=
  s.modCore c fun k => { k with sand := some 0, pnl := { k.pnl with window := false } }

/-- A pass on an active core in its window: it starts, or the window can hold none any more and counts as skipped, or it
is still open. -/
def State.windowPass (s : State) (c : Nat) : State :=
  let k := s.core c
  if !k.pnl.window || k.pnl.phase != 1 || k.is.stopped || s.ctl.halt then s
  else if !s.sandActive || decide (s.remaining c < s.passTicks c) then
    (s.modCore c fun k => { k with pnl := { k.pnl with window := false } }).bumpD rSandSkip
  else if k.sandable then s.beginPass c
  else s

/-- `SANDING_PASS_START` (R381): an active core in a window or in IDLE, or a spare of a clocked bay. -/
def execSandingPassStart (c : Nat) (s : State) : Res := onUnit (isSandUnit c) s fun s =>
  if nCores ≤ c then
    let b := spareBay c
    let free := !(s.sand.spares.any fun x => x.1 / 8 == b)
    if s.clocked && s.sandSpare && free && decide ((c - nCores) % 8 < (s.spareCores b).length) then
      { s with sand := { s.sand with spares := aput s.sand.spares (c - nCores) 0 } }
    else s
  else if (s.core c).sand.isSome then s
  else if s.ctl.st == stRunning then s.windowPass c
  else if s.ctl.st == stIdle && s.sandActive && (s.core c).sandable then s.beginPass c
  else s

/-- A finding on physical core n of bay b (R382): active names the logical core that it serves. -/
def State.sandFind (s : State) (b n : Nat) (active : Option Nat) : State :=
  let w := b + n <<< 5 + b2n active.isSome <<< 11
  let s := s.bumpD rSandFind
  let s := match active with
    | some c => (s.markFatal evSandFind none [w]).raiseFault 2 c 0
    | none => s.emit evSandFind none none [w]
  s.coreOut b n 2 active.isSome

/-- Columns with latent errors, lowest first. -/
def Core.badCols (k : Core) : List Nat := (upto 1024).filter fun n => k.mx.wsErr.any fun x => x.1 / 8 == n && x.2 != 0

/-- The read-only ECC sweep of a pass over the weight stage (R379). -/
def State.sweep (s : State) (c : Nat) : State := (s.core c).badCols.foldl (fun s n => (s.readCol c n).1) s

/-- A pass on an active core has run its cycles. -/
def State.endPass (s : State) (c : Nat) (ok : Bool) : State :=
  let now := s.scr.now
  let s := ((s.sweep c).modCore c fun k => { k with sand := none }).bumpD rSandPass
  if ok then s.modCore c fun k => { k with sandLast := now }
  else (s.modCore c Core.stop).sandFind (bayOf c) (s.physical c) (some c)

/-- `SANDING_PASS_DONE` (R382): 82,000 cycles have run; ok tells whether the signature matches. -/
def execSandingPassDone (c : Nat) (ok : Bool) (s : State) : Res := onUnit (isSandUnit c) s fun s =>
  if nCores ≤ c then
    let b := spareBay c
    match afind s.sand.spares (c - nCores) with
    | none => s
    | some n =>
      if n < 82000 then s
      else
        let s := ({ s with sand := { s.sand with spares := adel s.sand.spares (c - nCores) } } : State).bumpD rSandPass
        if ok then s else s.sandFind b ((s.spareCores b).getD ((c - nCores) % 8) 0) none
  else match (s.core c).sand with
    | none => s
    | some n => if n < 82000 then s else s.endPass c ok

/-- `SANDING_ABORT` (R381): 300 tk before the planned start, or at a halt. -/
def execSandingAbort (c : Nat) (s : State) : Res := onCore c s fun s =>
  if s.ctl.st == stRunning && (s.ctl.halt || decide (s.remaining c ≤ 300)) then s.abortPass c else s

/-- `SANDING_OVERDUE_CHECK` (R383): the firmware looks at one logical core once every 10^9 tk. -/
def execSandingOverdueCheck (c : Nat) (s : State) : Res := onCore c s fun s =>
  let day := 86400 * 10 ^ 9
  let now := s.scr.now
  let last := (s.core c).sandLast
  let from0 := if last == 0 then s.sand.since else last
  let told := match afind s.sand.overdue c with
    | some t => decide (now < t + day)
    | none => false
  if !s.clocked || !s.scr.running || told || decide (now ≤ from0 + day) then s
  else
    (({ s with sand := { s.sand with overdue := aput s.sand.overdue c now } } : State).bumpD rSandOverdue).emit
      evSandOverdue none none [c]

/-! ### The memory march (R384) -/

/-- A write of SAND_MARCH: bits 0 to 2 name memories, bit 4 clears FAIL. -/
def State.marchWrite (s : State) (v : Nat) : Written :=
  if s.ctl.st != stIdle then s.refusedWith eState
  else
    ({ s with sand := { s.sand with march := s.sand.march ||| bits v 2 0, fail := s.sand.fail && !bit v 4 } } :
      State).wrote

/-- A write of SAND_MARCH as a row of its own. -/
def State.marchRow (s : State) (v : Nat) : State := s.fromPort 0x10410004 fun s => s.marchWrite v

/-- `MARCH_ONCHIP` (R384). -/
def execMarchOnchip (s : State) : Res := .next (s.marchRow 1)

/-- `MARCH_HBM` (R384). -/
def execMarchHbm (s : State) : Res := .next (s.marchRow 2)

/-- `MARCH_DDR5` (R384). -/
def execMarchDdr5 (s : State) : Res := .next (s.marchRow 4)

/-- `SAND_MARCH_FAIL_CLEAR` (R386). -/
def execSandMarchFailClear (s : State) : Res := .next (s.marchRow 16)

/-- The stores of a core that a march covers are zero and clean, its segments LANDED. -/
def Core.marched (k : Core) : Core :=
  { k with
    bm := []
    mx := { k.mx with ws := [], wsPoison := [], wsErr := [] }
    sp := { k.sp with mem := [], poison := [], err := [], seg := [], scrubWb := [] }
    qs := k.qs.map fun q => (q.1, { q.2 with slots := [] }) }

/-- The memories that the bits name are zero and clean. -/
def State.zeroMarched (s : State) (named : Nat) : State :=
  let s := if bit named 0 then s.mapCores Core.marched else s
  let s := if bit named 1 then { s with mem := { s.mem with hbm := [], hbmPoison := [], merges := [] } } else s
  if bit named 2 then { s with mem := { s.mem with ddr := [], ddrPoison := [] } } else s

/-- Every named memory is done: the memories are zero, findings become records, BUSY clears. -/
def State.marchEnd (s : State) (f : MarchFindings) : State :=
  let m := s.sand.march
  let cores := if bit m 0 then f.cores else []
  let pages := if bit m 1 then f.hbmPages else []
  let rows := if bit m 0 then f.rows else []
  let bad := !cores.isEmpty || !rows.isEmpty || !pages.isEmpty || (bit m 2 && !f.ddrLines.isEmpty)
  let s := s.zeroMarched m
  let s := cores.foldl (fun s x => s.coreOut x.1 x.2 3 (s.serves x.1 x.2)) s
  let s := rows.foldl (fun s x => s.rowOut x 3 (s.serves x.1 x.2.1)) s
  let s := pages.foldl (fun s p => s.pageOut p 3) s
  { s with sand := { s.sand with march := 0, fail := bad } }

end Sys2Proof.Machine
end

