-- ==== Sys2Proof/Machine/Secure.lean ====
section
/-!
DEFINITION. The security block's commands (R389, R398, R399, R401): sessions, the owner record, debug unlock, and the
erasure of keys.
-/

namespace Sys2Proof.Machine

def rAttestCnt : Nat := 0x50000C
def rAuthFail : Nat := 0x500010
def rJobBad : Nat := 0x500014
def rDbgFail : Nat := 0x500018

/-- A write that the security block refuses (R398, R399). -/
def State.authRefused (s : State) (code : Nat) : Written := (s.bumpD rAuthFail).refusedWith code

/-! ### Sessions (R398) -/

/-- A write of SEC_SESSION: a wrap that opens under DTK starts a session, which replaces the old one. -/
def State.sessionWrite (s : State) (opens : Bool) : Written :=
  if opens && s.sec.dtk then ({ s with sec := { s.sec with session := some 0 } } : State).wrote
  else s.authRefused eAuth

/-- `SEC_SESSION` (R398). -/
def execSecSession (v : SessionIn) (s : State) : Res := .next (s.fromPort 0x10500500 fun s => s.sessionWrite v.opens)

/-! ### The owner record (R399) -/

/-- The record without its reserved bits. -/
def ownerRecord (r : BitVec 1088) : BitVec 1088 := BitVec.ofNat 1088 (setBits r.toNat 543 514 0)

def recVersion (r : BitVec 1088) : Nat := bits r.toNat 575 544

/-- A write of SEC_OWNER_IN. -/
def State.ownerWrite (s : State) (r : BitVec 1088) (sigOk : Bool) : Written :=
  let replace : Bool :=
    match s.sec.owner with
    | none => true
    | some old => sigOk && decide (recVersion old < recVersion r)
  if !s.writable then s.authRefused eState
  else if !replace then s.authRefused eAuth
  else ({ s with sec := { s.sec with owner := some (ownerRecord r) } } : State).wrote

/-- `SEC_OWNER_IN` (R399). -/
def execSecOwnerIn (v : OwnerIn) (s : State) : Res :=
  .next (s.fromPort 0x10500380 fun s => s.ownerWrite v.record v.sigOk)

/-! ### Erasure -/

/-- Every key that Table 17-1 marks erased, and the owner record (R401, R403). -/
def Sec.erase (x : Sec) : Sec :=
  { x with
    idk := false, dtk := false, owner := none, ddrKeys := false, jobKey := false, partKey := false, linkKeys := false,
    session := none, zeroised := true }

/-- Register words of a core that stand for its stores: panel table, handle table, stream programs, routes and
mailboxes (Table 19-3). -/
def storeWord (off : Nat) : Bool :=
  within off 0x2000 0x3FFF || within off 0x5800 0x5BFF || within off 0x6000 0x63FF ||
    (within off 0x7400 0x757F && off % 0x20 < 8)

/-- The on-chip stores of a core read as zero, with valid check bits. -/
def Core.zeroStores (k : Core) : Core :=
  { k with
    regs := k.regs.filter fun r => !storeWord r.1
    bm := []
    mx := { k.mx with ws := [], wsPoison := [], wsErr := [] }
    sp := { k.sp with mem := [], poison := [], err := [], scrubWb := [] }
    qs := k.qs.map fun q => (q.1, { q.2 with slots := [] }) }

/-- Words of the hub's stores: Weight Directory, manifest, glaze table, sequence table (Table 16-4). -/
def hubStore (off : Nat) : Bool :=
  within off 0x20000 0x21FFF || within off 0x40000 0x43FFF || within off 0x50000 0x5FFFF || within off 0x100000 0x1FFFFF

/-- Every HBM line and every on-chip store is written with zero (R401). -/
def State.zeroMemory (s : State) : State :=
  { s.mapCores Core.zeroStores with
    dregs := s.dregs.filter fun r => !hubStore r.1
    sem := []
    mem := { s.mem with hbm := [], hbmPoison := [], merges := [] } }

/-! ### Debug unlock (R401) -/

/-- The challenge is current: it has had no response, and is younger than 60 s. -/
def State.chalCurrent (s : State) : Bool := s.sec.chalLive && decide (s.scr.ns < s.sec.chalAt + 60000000000)

/-- A read of SEC_DBG_CHAL makes a new challenge: the digest of 32 fresh random bytes and DEVID. -/
def State.newChallenge (s : State) : State :=
  let fresh := toBytes 32 (Config.freeBits 256 s.free).toNat
  { s with
    free := s.free + 1
    sec := { s.sec with chal := Config.digest (fresh ++ toBytes 32 devid.toNat), chalLive := true, chalAt := s.scr.ns } }

/-- `SEC_DBG_CHAL` (R401), through the control port or the service header. -/
def execSecDbgChal (s : State) : Res :=
  .next (if !s.clocked then s
    else
      let s := s.newChallenge
      s.send (.value (s.mmioAddr 0x10500480) s.sec.chal.toNat))

/-- The device is in a state in which it can be unlocked. -/
def State.unlockable (s : State) : Bool := s.ctl.st == stIdle || s.ctl.st == stHalted || s.ctl.st == stFaulted

/-- A write of SEC_DBG_RESP. -/
def State.debugResponse (s : State) (verifies : Bool) : Written :=
  let ok := verifies && s.chalCurrent && s.unlockable
  let s := { s with sec := { s.sec with chalLive := false } }
  if !ok then (s.bumpD rDbgFail).refusedWith eAuth
  else
    let s := { s with sec := { s.sec.erase with debugOpen := true } }
    (s.zeroMemory.emit evDebugOpen none none []).wrote

/-- `SEC_DBG_RESP` (R401), through the control port or the service header. -/
def execSecDbgResp (verifies : Bool) (s : State) : Res :=
  .next (if !s.clocked then s
    else match s.debugResponse verifies with
      | (t, none) => t
      | (t, some code) => t.send (.error code (t.mmioAddr 0x105004A0)))

/-- `DBG_CHALLENGE_EXPIRY` (R401): 60 s have passed. -/
def execDbgChallengeExpiry (s : State) : Res :=
  .next (if s.sec.chalLive && !s.chalCurrent then { s with sec := { s.sec with chalLive := false } } else s)

end Sys2Proof.Machine
end

