-- ==== Sys2Proof/Machine/RegWrites.lean ====
section
/-!
DEFINITION. Writes of registers by the control port (R9, R20, R69 to R71): the clearing registers, the state-limited
fields, and the write of any register word. Read-only fields and reserved bits take no write; a write to an offset
that no chapter defines is out of bounds.
-/

namespace Sys2Proof.Machine

/-! ### Clearing registers -/

/-- Registers of a core are cleared: for each pair whose bit is set in v, the word at its offset. -/
def Core.clears (k : Core) (v : Nat) (sel : List (Nat × Nat)) : Core :=
  sel.foldl (fun k x => if bit v x.1 then k.setReg x.2 0 else k) k

/-- The same for the device window. -/
def State.clears (s : State) (v : Nat) (sel : List (Nat × Nat)) : State :=
  sel.foldl (fun s x => if bit v x.1 then s.setDreg x.2 0 else s) s

/-- Bits from lo on clear n counters that stand step bytes apart from off on. -/
def spaced (lo off step n : Nat) : List (Nat × Nat) := (upto n).map fun i => (lo + i, off + step * i)

/-- PNL_CLEAR (Table 02-9). -/
def Core.clearPnl (k : Core) (v : Nat) : Core := k.clears v (spaced 0 rPnlLateCnt 4 5)

/-- CORE_CLEAR (Table 03-14). -/
def Core.clearCore (k : Core) (v : Nat) : Core :=
  let k := k.clears v ([(0, rCollide), (1, rCoreViol)] ++ spaced 3 (rStall 0) 4 8)
  if bit v 2 then k.setReg rCoreTok (k.reg rCoreTok % 2 ^ 16) else k

/-- CORE_FV2_CLEAR (Table 09-3). -/
def Core.clearFv2 (k : Core) (v : Nat) : Core := k.clears v [(0, rFv2Hold)]

/-- MA_CLEAR (Table 04-8). -/
def Core.clearMa (k : Core) (v : Nat) : Core :=
  k.clears v [(0, rProd 0), (1, rProd 1), (2, rGlz 0), (3, rGlz 1), (4, rRet), (5, rMaViol)]

/-- WS_CLEAR (Table 04-8). -/
def Core.clearWs (k : Core) (v : Nat) : Core := k.clears v [(0, rWsCe), (1, rWsUe), (2, rWsLd)]

/-- VE_CLEAR (Table 06-9). -/
def Core.clearVe (k : Core) (v : Nat) : Core := k.clears v [(0, rVeIssue), (1, rVeSf), (2, rVePop), (3, rVeViol)]

/-- SP_CLEAR (Table 07-8). -/
def Core.clearSp (k : Core) (v : Nat) : Core := k.clears v [(0, rSpCe), (1, rSpUe), (2, rSpViol), (3, rSpLmRows)]

/-- CORE_STN_CLEAR (Table 08-11). -/
def Core.clearStn (k : Core) (v : Nat) : Core :=
  k.clears v [(0, rStnEntry), (1, rStnDone), (2, rStnHoldM), (3, rStnHoldV), (4, rStnViol)]

/-- SE_CLEAR (Table 10-7). -/
def Core.clearSe (k : Core) (v : Nat) : Core :=
  k.clears v (((upto 4).flatMap fun n => spaced (5 * n) (rSeLinesIn n) 4 5) ++ [(20, rSeViol), (21, rSePoison)])

/-- Q_CLEAR (Table 11-10). -/
def Core.clearQ (k : Core) (v : Nat) : Core :=
  k.clears v ([(0, rSemTimeout), (1, rSemRetry), (2, rQViol)] ++ spaced 3 (rQRecv 0) 0x20 8 ++ spaced 3 (rQDisc 0) 0x20 8 ++
    spaced 11 (rRtSent 0) 0x20 8 ++ spaced 11 (rRtPad 0) 0x20 8 ++ spaced 19 (rMbxRec 0) 0x20 4 ++
    spaced 19 (rMbxDisc 0) 0x20 4)

/-- SCR_CLEAR (Table 02-2). -/
def State.clearScr (s : State) (v : Nat) : State := s.clears v [(0, 0x1014)]

/-- HBM_CLEAR (Table 13-8); bit 4 clears every HBM_LAT_MAX. -/
def State.clearHbm (s : State) (v : Nat) : State :=
  s.clears v (spaced 0 0x1000C 4 4 ++ (upto 12).map fun n => (4, 0x10100 + 4 * n))

/-- DDR_CLEAR (Table 13-8). -/
def State.clearDdr (s : State) (v : Nat) : State := s.clears v (spaced 0 0x12004 4 2)

/-- WD_CLEAR (Table 13-8). -/
def State.clearWd (s : State) (v : Nat) : State := s.clears v [(0, rWdReject)]

/-- SEQ_CLEAR (Table 13-8). -/
def State.clearSeq (s : State) (v : Nat) : State := s.clears v [(0, rSeqBusy), (1, rSeqErr)]

/-- FAB_CLEAR (Table 14-9): PEAK starts again at NOW. -/
def State.clearFab (s : State) (v : Nat) : State :=
  let s := s.clears v (spaced 0 0x200018 4 6)
  if bit v 6 then { s with fab := { s.fab with inbPeak := s.fab.inb } } else s

/-- FAB_PORT_CLEAR p (Table 14-9). -/
def State.clearPort (s : State) (p v : Nat) : State :=
  s.clears v (spaced 0 (rPort p 0x0C) 4 4 ++
    [(4, rPort p 0x20), (4, rPort p 0x24), (5, rPort p 0x28), (5, rPort p 0x2C)])

/-- GOV_CLEAR (Table 15-6). -/
def State.clearGov (s : State) (v : Nat) : State :=
  let s := s.clears v (spaced 0 0x300010 4 2)
  if bit v 2 then s.setDreg 0x30000C (s.dreg 0x30000C % 2 ^ 16) else s

/-- ACG_CLEAR (Table 15-6). -/
def State.clearAcg (s : State) (v : Nat) : State :=
  let s := s.clears v ((upto 37).flatMap fun r => [(1, rAcgStretch r), (1, rAcgWarn r)])
  { s with regions := s.regions.map fun x =>
      (x.1, { x.2 with fmin := if bit v 0 then 0xFFFF else x.2.fmin, margin := if bit v 2 then 0xFFFF else x.2.margin }) }

/-- XNG_CLEAR (Table 15-6). -/
def State.clearXng (s : State) (v : Nat) : State :=
  s.clears v ((upto 32).flatMap fun b => (upto 3).map fun i => (0, 0x301004 + 16 * b + 4 * i))

/-- SAND_CLEAR (Table 16-9). -/
def State.clearSand (s : State) (v : Nat) : State := s.clears v (spaced 0 0x410008 4 5)

/-- SEC_CLEAR (Table 17-12). -/
def State.clearSec (s : State) (v : Nat) : State := s.clears v [(0, rAuthFail), (1, rJobBad), (2, rDbgFail)]

/-- CP_CLEAR (Table 18-10). -/
def State.clearCp (s : State) (v : Nat) : State := s.clears v (spaced 0 0x600004 4 5)

/-! ### Bits that a 1 clears (R9) -/

/-- CORE_FAULT_INFO: VALID takes OVF with it (R68). -/
def Core.clearFault (k : Core) (v : Nat) : Core :=
  let w := k.reg rFaultInfo
  let w := if bit v 8 then setBits w 9 8 0 else if bit v 9 then setBits w 9 9 0 else w
  k.setReg rFaultInfo w

/-- SCR_STATUS.ALIGN_ERR. -/
def State.clearAlignErr (s : State) (v : Nat) : State :=
  if bit v 1 then { s with scr := { s.scr with alignErr := false } } else s

/-- SEQ_STATUS.ERR. -/
def State.clearSeqErr (s : State) (v : Nat) : State := if bit v 1 then s.setDreg rSeqStatus 0 else s

/-! ### State-limited fields of a core's window -/

/-- Offsets of state-limited fields, and of the stores that are limited in the same way (R41, R71). -/
def limitedOff (off : Nat) : Bool :=
  off == rCoreCtrl || off == rCoreEntry || within off 0x80 0x8C || within off 0x100 0x17C || off == rMaCtrl ||
    within off 0x1440 0x157C || within off 0x1700 0x1710 || within off 0x1800 0x19FC || within off 0x2000 0x3FFC ||
    off == 0x4010 || off == 0x4014 || within off 0x5800 0x5BFC || within off 0x6000 0x63FC || within off 0x7000 0x71FC ||
    (within off 0x7400 0x757C && off % 0x20 < 8) || 0x8000 ≤ off

/-- The counter of a refused write (R71). -/
def refusedCounter (off : Nat) : Nat :=
  if within off 0x5800 0x5BFF then rSpViol else if within off 0x7000 0x7FFF then rQViol else rCoreViol

/-- The row of a violation table that a refused write to an offset of a core's window is (R71, R424). -/
def refusedCode (off : Nat) : Nat :=
  if within off 0x5800 0x5BFF then 0x77 else if within off 0x7000 0x7FFF then 0xB8
  else if within off 0x2000 0x3FFF || off == 0x4010 || off == 0x4014 then 0x14 else 0x35

/-- A write that core c refuses counts and is logged (R68, R71); the core does not stop. Its slot is 6, an agent outside the
bundle (DESIGN CHOICE, log entry 112). -/
def State.refusedIn (s : State) (c cnt code addr : Nat) : Written :=
  (s.modCore c fun k => (k.bump cnt).logFault (s.cyc c) code 6 k.bundleIndex addr).refusedWith eState

/-- What is logged of a refused write in a core's window: the MMIO offset, or the global address (Tables 02-10, 03-12, 07-7,
11-12). -/
def State.refusedAddr (s : State) (c off : Nat) : Nat :=
  let x := c <<< 16 + off
  if refusedCode off == 0x77 || refusedCode off == 0xB8 then s.mmioAddr x else x

/-- Bits of a plain register word that a write replaces. -/
def coreBits (off : Nat) : Nat :=
  if off == rCoreCtrl then 3
  else if off == rCoreEntry then 0x7FF
  else if off == rMaCtrl then 1
  else if off == rKcgRank then 0xFFF
  else if within off 0x5800 0x5BFC && off % 16 == 12 then 3
  else if within off 0x7500 0x757C && off % 0x20 == 4 then 0x7FFFFFF
  else 2 ^ 32 - 1

/-- A state-limited field other than a semaphore takes v. -/
def Core.putField (k : Core) (off v : Nat) : Core :=
  let w := BitVec.ofNat 32 v
  if within off 0x80 0x8C then k.setLc ((off - 0x80) / 4) w
  else if within off 0x100 0x17C then k.setS ((off - 0x100) / 4) w
  else if within off 0x1440 0x147C then
    let n := (off - 0x1440) / 8
    let lo := 32 * (off / 4 % 2)
    { k with ve := { k.ve with m := aput k.ve.m n (BitVec.ofNat 64 (setBits (k.m n).toNat (lo + 31) lo v)) } }
  else if within off 0x1480 0x157C then
    let r := k.reg 0x1410
    { k with ve := { k.ve with v := aput k.ve.v r (lset (k.v r) ((off - 0x1480) / 4) w) } }
  else if off == 0x4010 then { k with pnl := { k.pnl with step := setBits k.pnl.step 31 0 v } }
  else if off == 0x4014 then { k with pnl := { k.pnl with step := setBits k.pnl.step 47 32 v } }
  else if 0x8000 ≤ off then { k with bm := mputs k.bm (k.bmByte off) (toBytes 4 v) }
  else k.setReg off (v &&& coreBits off)

/-- Registers of a core's window that any state may write. -/
def Core.putFree (k : Core) (off v : Nat) : Core :=
  if off == rFaultInfo then k.clearFault v
  else if off == 0x60 then k.clearCore v
  else if off == rBmPage then k.setReg off (v &&& 1)
  else if off == 0x214 then k.clearFv2 v
  else if off == 0x1038 then k.clearMa v
  else if off == 0x110C then k.clearWs v
  else if off == 0x1410 then k.setReg off (v &&& 31)
  else if off == 0x1590 then k.clearVe v
  else if off == 0x1A2C then k.clearStn v
  else if off == 0x4040 then k.clearPnl v
  else if off == rSpScrub then k.setReg off (v &&& 0xFFFF)
  else if off == 0x5028 then k.clearSp v
  else if off == 0x670C then k.clearSe v
  else if off == 0x7604 then k.clearQ v
  else k

/-- A write of CORE_RESET (R438): accepted in FAULTED too when a job has faulted. -/
def State.resetWrite (s : State) (c v : Nat) : Written :=
  if !bit v 0 then s.wrote
  else if s.writable || (s.ctl.st == stFaulted && !s.ctl.bootFail) then (s.coreReset c).wrote
  else s.refusedIn c rCoreViol 0x35 (s.refusedAddr c 0x220)

/-- A write of a word of core c's window. -/
def State.coreWrite (s : State) (c off v : Nat) : Written :=
  if (s.coreWord c off).isNone then s.refusedWith eBounds
  else if off == 0x220 then s.resetWrite c v
  else if !limitedOff off then (s.modCore c fun k => k.putFree off v).wrote
  else if !s.writable then s.refusedIn c (refusedCounter off) (refusedCode off) (s.refusedAddr c off)
  else if within off 0x7000 0x71FC then (s.setSem (ownSem c ((off - 0x7000) / 4)) (BitVec.ofNat 32 v)).wrote
  else (s.modCore c fun k => k.putField off v).wrote

/-! ### The device window -/

/-- State-limited registers of the device window with the bits that a write replaces. -/
def deviceBits (off : Nat) : Option Nat :=
  if off == 0x1100 || off == 0x10000 || off == 0x30000 || off == 0x30004 || within off 0x30040 0x30054 ||
    off == 0x200008 || off == 0x300008 then some (2 ^ 32 - 1)
  else if off == 0x10004 then some 0xF
  else if off == 0x30008 || off == 0x20000C then some 0x1FFF
  else if off == 0x410000 then some 3
  else none

/-- Registers of the device window that clear, and PNL_LATE_THRESH. -/
def State.putFree (s : State) (off v : Nat) : State :=
  if off == 0x1010 then s.clearAlignErr v
  else if off == 0x1018 then s.setDreg off v
  else if off == 0x101C then s.clearScr v
  else if off == 0x10030 then s.clearHbm v
  else if off == 0x12018 then s.clearDdr v
  else if off == 0x22014 then s.clearWd v
  else if off == 0x30018 then s.clearSeqErr v
  else if off == 0x30028 then s.clearSeq v
  else if off == 0x200030 then s.clearFab v
  else if within off 0x201000 0x20133C && off % 0x40 == 0x30 then s.clearPort ((off - 0x201000) / 0x40) v
  else if off == 0x300018 then s.clearGov v
  else if off == 0x300480 then s.clearAcg v
  else if off == 0x301200 then s.clearXng v
  else if off == 0x41001C then s.clearSand v
  else if off == 0x50001C then s.clearSec v
  else if off == 0x60001C then s.clearCp v
  else s

/-- A write of a word of the device window. WD_FLIP, SEC_SESSION, SEC_OWNER_IN and SEC_DBG_RESP act when one write
covers them whole; a word of them alone does nothing. -/
def State.deviceWrite (s : State) (off v : Nat) : Written :=
  if (s.deviceWord off).isNone then s.refusedWith eBounds
  else match deviceBits off with
    | some m => s.limited fun s => s.setDreg off (v &&& m)
    | none =>
      if within off 0x20000 0x21FFC then s.wdWrite off v
      else if off == 0x30010 then s.commitWrite v
      else if within off 0x40000 0x43FFC || within off 0x50000 0x5FFFC || within off 0x100000 0x1FFFFC then
        s.seqTableWrite off v
      else if within off 0x201000 0x20133C && off % 0x40 == 8 then s.portCtrlWrite ((off - 0x201000) / 0x40) v
      else if off == 0x410004 then s.marchWrite v
      else (s.putFree off v).wrote

/-- A write of the word at an MMIO offset. -/
def State.writeWord (s : State) (off v : Nat) : Written :=
  if off % 4 != 0 then s.refusedWith eAlign
  else if off < 0x10000 * nCores then s.coreWrite (off / 0x10000) (off % 0x10000) v
  else if 0x10000000 ≤ off && off < 0x11000000 then s.deviceWrite (off - 0x10000000) v
  else s.refusedWith eBounds

/-! ### The commands -/

/-- A register write as a command. -/
def State.regWrite (s : State) (off : Nat) (v : Word) : State := s.fromPort off fun s => s.writeWord off v.toNat

/-- A write to the device window, and to the window of core c. -/
def State.devRow (s : State) (off : Nat) (v : Word) : Res := .next (s.regWrite (0x10000000 + off) v)
def State.coreRow (s : State) (c off : Nat) (v : Word) : Res := onCore c s fun s => s.regWrite (0x10000 * c + off) v

/-- `REGISTER_WRITE` (R71). -/
def execRegisterWrite (off : Nat) (v : Word) (s : State) : Res := .next (s.regWrite off v)

/-- `CORE_RESET` (R438): a write of 1 to GO. -/
def execCoreReset (c : Nat) (s : State) : Res := s.coreRow c 0x220 1#32

/-- `CORE_FAULT_INFO` (R68). -/
def execCoreFaultInfo (c : Nat) (v : Word) (s : State) : Res := s.coreRow c 0x18 v

/-- `PNL_CLEAR` (R41). -/
def execPnlClear (c : Nat) (v : Word) (s : State) : Res := s.coreRow c 0x4040 v

/-- `CORE_CLEAR` (R71). -/
def execCoreClear (c : Nat) (v : Word) (s : State) : Res := s.coreRow c 0x60 v

/-- `CORE_FV2_CLEAR` (R213). -/
def execCoreFv2Clear (c : Nat) (v : Word) (s : State) : Res := s.coreRow c 0x214 v

/-- `MA_CLEAR` (R99). -/
def execMaClear (c : Nat) (v : Word) (s : State) : Res := s.coreRow c 0x1038 v

/-- `WS_CLEAR` (R99). -/
def execWsClear (c : Nat) (v : Word) (s : State) : Res := s.coreRow c 0x110C v

/-- `VE_CLEAR` (R154). -/
def execVeClear (c : Nat) (v : Word) (s : State) : Res := s.coreRow c 0x1590 v

/-- `SP_CLEAR` (R175). -/
def execSpClear (c : Nat) (v : Word) (s : State) : Res := s.coreRow c 0x5028 v

/-- `CORE_STN_CLEAR` (R207). -/
def execCoreStnClear (c : Nat) (v : Word) (s : State) : Res := s.coreRow c 0x1A2C v

/-- `SE_CLEAR` (R251). -/
def execSeClear (c : Nat) (v : Word) (s : State) : Res := s.coreRow c 0x670C v

/-- `Q_CLEAR` (R279). -/
def execQClear (c : Nat) (v : Word) (s : State) : Res := s.coreRow c 0x7604 v

/-- `SCR_STATUS` (R24). -/
def execScrStatus (v : Word) (s : State) : Res := s.devRow 0x1010 v

/-- `SEQ_STATUS` (R318). -/
def execSeqStatus (v : Word) (s : State) : Res := s.devRow 0x30018 v

/-- `SCR_CLEAR` (R24). -/
def execScrClear (v : Word) (s : State) : Res := s.devRow 0x101C v

/-- `HBM_CLEAR` (R318). -/
def execHbmClear (v : Word) (s : State) : Res := s.devRow 0x10030 v

/-- `DDR_CLEAR` (R318). -/
def execDdrClear (v : Word) (s : State) : Res := s.devRow 0x12018 v

/-- `WD_CLEAR` (R318). -/
def execWdClear (v : Word) (s : State) : Res := s.devRow 0x22014 v

/-- `SEQ_CLEAR` (R318). -/
def execSeqClear (v : Word) (s : State) : Res := s.devRow 0x30028 v

/-- `FAB_CLEAR` (R353). -/
def execFabClear (v : Word) (s : State) : Res := s.devRow 0x200030 v

/-- `FAB_PORT_CLEAR` (R353). -/
def execFabPortClear (p : Nat) (v : Word) (s : State) : Res :=
  onUnit (decide (p < nPorts)) s fun s => s.regWrite (0x10000000 + rPort p 0x30) v

/-- `GOV_CLEAR` (R368). -/
def execGovClear (v : Word) (s : State) : Res := s.devRow 0x300018 v

/-- `ACG_CLEAR` (R368). -/
def execAcgClear (v : Word) (s : State) : Res := s.devRow 0x300480 v

/-- `XNG_CLEAR` (R368). -/
def execXngClear (v : Word) (s : State) : Res := s.devRow 0x301200 v

/-- `SAND_CLEAR` (R386). -/
def execSandClear (v : Word) (s : State) : Res := s.devRow 0x41001C v

/-- `SEC_CLEAR` (R404). -/
def execSecClear (v : Word) (s : State) : Res := s.devRow 0x50001C v

/-- `CP_CLEAR` (R425). -/
def execCpClear (v : Word) (s : State) : Res := s.devRow 0x60001C v

end Sys2Proof.Machine
end

