-- ==== Sys2Proof/Machine/Power.lean ====
section
/-!
DEFINITION. Power (R426, R428, R366, R447), the power-up sequence (R427 to R434) with the patch of R377, the warm
reset (R436, R439, R440), tamper (R403), and the optical link (R405).
-/

namespace Sys2Proof.Machine

/-! ### Off -/

/-- The rails are down: only fuses, module flash and the security block's store keep their contents (R367). A record whose
finding lies less than 1 s back may be torn (R376). -/
def State.powerOff (s : State) (rails : Nat) : State :=
  let x := s.sec
  { State.reset with
    pending := s.pending, out := s.out, free := s.free
    sec := { Sec.init with
      idk := x.idk, dtk := x.dtk, owner := x.owner, zeroised := x.zeroised, tamper := x.tamper, trips := x.trips }
    pat := { Patch.init with
      flash := s.pat.flash, env := s.pat.env
      mayTear := (s.pat.fresh.filter fun x => s.scr.ns < x.2 + 10 ^ 9).map (·.1) }
    rails }

/-! ### The patch (R377) -/

/-- A record passes step 2 of R377. -/
def recValid (r : PatchRec) : Bool :=
  prSigned r && prField r 511 256 == devid.toNat && 1 ≤ prKind r && prKind r ≤ 3 && prField r 31 16 == 0 && prField r 127 72 == 0 &&
    prField r 255 162 == 0 && (prKind r != 3 || decide (prStack r < 12))

/-- Two records name the same resource. -/
def sameRec (a b : PatchRec) : Bool :=
  prKind a == prKind b &&
    if prKind a == 3 then prPlace a == prPlace b
    else prBay a == prBay b && prCore a == prCore b && (prKind a == 1 || (prBank a == prBank b && prBrow a == prBrow b))

/-- The records without repeats, in order. -/
def distinctRecs : List PatchRec → List PatchRec → List PatchRec
  | [], acc => acc
  | r :: rs, acc => distinctRecs rs (if acc.any (sameRec r) then acc else acc ++ [r])

def State.records (s : State) : List PatchRec := distinctRecs (s.pat.flash.filter recValid) []

/-- Repaired scratchpad rows as (bay, core, bank), one entry a row. -/
def State.repairedRows (s : State) (e : BootEnv) : List (Nat × Nat × Nat) :=
  e.factoryRows ++ (s.records.filter fun r => prKind r == 2).map fun r => (prBay r, prCore r, prBank r)

/-- Physical cores that are out: by fuse, by record, by a bank with more than 8 repaired rows (R377 steps 1 to 4). -/
def State.coresOut (s : State) (e : BootEnv) : List (Nat × Nat) :=
  let rows := s.repairedRows e
  e.factoryOut ++ ((s.records.filter fun r => prKind r == 1).map fun r => (prBay r, prCore r)) ++
    ((rows.filter fun x => 8 < rows.countP (· == x)).map fun x => (x.1, x.2.1))

/-- Bad cores of bay b as a mask. -/
def outMask (l : List (Nat × Nat)) (b : Nat) : Nat := join 1 ((upto 64).map fun n => b2n (l.contains (b, n)))

/-- Steps 1 to 5 of R377: PATCH_OUT and the mapping. -/
def State.mapCoresOut (s : State) (e : BootEnv) : State :=
  let l := s.coresOut e
  { s with pat := { s.pat with
    out := (upto nBays).map fun b => (b, outMask l b)
    map := (upto nBays).map fun b => (b, servingCores (outMask l b)) } }

/-- SP_SPARE of a logical core whose physical core has a repaired row in a bank (R169). -/
def State.countSpare (s : State) (x : Nat × Nat × Nat) : State :=
  match (aget [] s.pat.map x.1).findIdx? (· == x.2.1) with
  | some j => s.modCore (56 * x.1 + j) fun k =>
      { k with sp := { k.sp with spare := aput k.sp.spare x.2.2 (aget 0 k.sp.spare x.2.2 + 1) } }
  | none => s

/-- Registers of Table 16-9 after the patch. -/
def State.patchRegisters (s : State) (e : BootEnv) : State :=
  let fl := s.pat.flash
  let rs := s.records
  let dead := rs.countP fun r => prKind r == 3 && e.noSpare.contains (prSerial r)
  let next := match fl.getLast? with | some r => prSerial r + 1 | none => 0
  let s := s.setDreg 0x400000 (if fl.length ≥ 8192 then 16 else 0)
  (((s.setDreg 0x400004 (rs.length - dead)).setDreg 0x400008 (fl.countP fun r => !recValid r)).setDreg 0x40000C
    dead).setDreg 0x400010 next

/-- A BIST finding in a core that is not out yet becomes a record (R429). -/
def State.bistFind (s : State) (e : BootEnv) (x : Nat × Nat) : State :=
  if (s.coresOut e).contains x || decide (nBays ≤ x.1) || decide (64 ≤ x.2) then s
  else s.coreOut x.1 x.2 1 false

/-- A BIST finding in a scratchpad row that no record repairs yet becomes a record (R429, R376). -/
def State.bistRow (s : State) (x : Nat × Nat × Nat × Nat) : State :=
  let known := s.records.any fun r =>
    prKind r == 2 && prBay r == x.1 && prCore r == x.2.1 && prBank r == x.2.2.1 && prBrow r == x.2.2.2
  if known || decide (nBays ≤ x.1) || decide (64 ≤ x.2.1) || decide (16 ≤ x.2.2.1) || decide (1024 ≤ x.2.2.2) then s
  else s.rowOut x 1 false

/-- Steps 6 and 7: the patch, BIST where the boot is cold, the mapping. -/
def State.applyPatch (s : State) (e : BootEnv) (cold : Bool) : State :=
  let s := (s.mapCores fun k => { k with sp := { k.sp with spare := [] } }).patchRegisters e
  let s := if cold then e.bistRows.foldl State.bistRow (e.bist.foldl (fun s x => s.bistFind e x) s) else s
  let s := match cold, e.hubUe with
    | true, some n => s.fatal evHubUe none [n % 16] 1
    | _, _ => s
  let s := s.mapCoresOut e
  let s := (s.repairedRows e).foldl State.countSpare s
  s.setDreg 0x400000 (setBits (s.dreg 0x400000) 3 2 0)

/-- Bays with fewer than 56 good cores. -/
def State.shortBays (s : State) : List Nat := (upto nBays).filter fun b => (aget [] s.pat.map b).length < 56

/-! ### Training (R430, R431, R446) -/

/-- Address of the first line of stack n (R430). -/
def State.stackLine (s : State) (n : Nat) : Nat :=
  gaMake s.fab.coord spHbm (if bit s.spread 0 then 512 * (64 * n) else n * 2 ^ 30)

/-- Step 10: stacks that do not train are out of service. -/
def State.trainHbm (s : State) (e : BootEnv) : State :=
  let bad := (upto 12).filter fun n => e.hbmFail.contains n
  let s := s.setDreg 0x10040 (join 1 ((upto 12).map fun n => b2n (bad.contains n)))
  bad.foldl (fun s n => s.emit evMemUe none (some clsUncorrected) ([3] ++ lohi (s.stackLine n))) s

/-- The fitted module of socket c. -/
def fitted (l : List DdrModule) (c : Nat) : Option DdrModule := l.find? fun m => m.ch == c

/-- The lowest-numbered fitted module. -/
def firstModule (l : List DdrModule) : Option DdrModule := ((upto 8).filterMap (fitted l)).head?

/-- The rates that R300 lists for a type of module, in MT/s / 100, highest first; none for another type. -/
def ddrRates (kind : Nat) : List Nat := if kind ≤ 1 then [64, 56, 48] else if kind == 2 then [88, 80] else []

/-- The highest rate of R300 that the module supports: the device trains at no other (R12). -/
def trainRate (m : DdrModule) : Option Nat := (ddrRates m.kind).find? fun r => decide (r ≤ m.rate)

/-- The module is a part that R300 lists and trains. -/
def ddrTrains (m : DdrModule) : Bool := m.ok && m.size ≤ 8 && (trainRate m).isSome

/-- The modules that are taken: of the type and size of the first one, and trained (R446, R431). -/
def takenModules (l : List DdrModule) : List DdrModule :=
  match firstModule l with
  | none => []
  | some f => ((upto 8).filterMap (fitted l)).filter fun m => ddrTrains m && m.kind == f.kind && m.size == f.size

/-- NCH: the largest of 1, 2, 4 and 8 that does not exceed n. -/
def nchOf (n : Nat) : Nat := if n ≥ 8 then 8 else if n ≥ 4 then 4 else if n ≥ 2 then 2 else n

/-- Step 11: DDR_CFG and DDR_TRAIN. -/
def State.trainDdr (s : State) (e : BootEnv) : State :=
  let l := takenModules e.ddr
  let present := join 1 ((upto 8).map fun c => b2n (fitted e.ddr c).isSome)
  let trained := join 1 ((upto 8).map fun c => b2n (l.any fun m => m.ch == c))
  let rate := l.foldl (fun r m => if r == 0 then (trainRate m).getD 0 else min r ((trainRate m).getD 0)) 0
  let cfg := match l with
    | m :: _ => (rate % 256) <<< 8 + nchOf l.length <<< 16 + (m.size % 16) <<< 20 + b2n (m.kind == 2) <<< 24
    | [] => 0
  (s.setDreg 0x12020 trained).setDreg 0x12000 (present + cfg)

/-! ### The manifest (R329, R330) -/

/-- Coordinate of the neighbour at port p of a device at x (R319). -/
def neighbourAt (n x p : Nat) : Option Nat :=
  if p < n then some (x ^^^ 2 ^ p) else if p == 12 && 2 ≤ n then some (x ^^^ (2 ^ n - 1)) else none

/-- The manifest passes the checks of R330. -/
def State.manifestOk (s : State) (m : Manifest) : Bool :=
  m.ok && s.sec.owner.isSome && m.devid == devid && decide (m.dims ≤ 12) && decide (m.coord < 2 ^ m.dims) &&
    m.ports.all fun p => decide (p.port < nPorts) && neighbourAt m.dims m.coord p.port == some p.coord

/-- A port as the manifest lists it: DOWN, or DISABLED where it does not. -/
def manifestPort (m : Manifest) (p : Nat) : Port :=
  match m.ports.find? fun x => x.port == p with
  | some x =>
    { Port.init with
      listed := true, cls := x.cls, cable := x.cable, nbr := x.coord, nbrPort := x.nport, nbrId := x.devid, nbrGen := x.gen }
  | none => { Port.init with st := psDisabled, reason := rsUnlisted }

/-- Step 12 up to the start of training. -/
def State.takeManifest (s : State) (m : Manifest) : State :=
  if s.manifestOk m then
    let s : State := { s with fab := { Fab.init with
        coord := m.coord, root := m.root, dims := m.dims, manOk := true, upAt := s.scr.ns
        gens := (m.gens.filter fun x => x.2 != 3).foldl (fun l x => aput l x.1 x.2) []
        ports := (upto nPorts).map fun p => (p, manifestPort m p) } }
    { s with fab := { s.fab with weights := s.fabWeights } }
  else
    ({ s with fab := { Fab.init with
        upAt := s.scr.ns
        ports := (upto nPorts).map fun p => (p, ({ Port.init with st := psDisabled, reason := 1 } : Port)) } } :
      State).emit evManifestBad none (some clsFatal) []

/-! ### The sequence (Table 19-1) -/

/-- The boot stops at a step (R394, R358, R377). -/
def State.bootStop (s : State) (step : Nat) : State :=
  let s := { s with ctl := { s.ctl with bootFail := true, bootStep := step } }
  s.enter stFaulted 0

/-- The copy that a stage accepts, with whether it is copy B (R393). -/
def pickCopy (a b : CodeCopy) : Option (CodeCopy × Bool) :=
  if a.ok then some (a, false) else if b.ok then some (b, true) else none

/-- CODE_COPY_BAD for copy A of a stage where copy B serves (R394). -/
def State.copyNoted (s : State) (stage : Nat) (isB : Bool) : State :=
  if isB then s.emit evCodeCopyBad none none [stage] else s

/-- Measurement 3: over the fuse patch and the applied records in order (R393). -/
def State.patchDigest (s : State) (e : BootEnv) : BitVec 256 :=
  let applied := s.records.filter fun r => !(prKind r == 3 && e.noSpare.contains (prSerial r))
  Config.digest (e.fusePatch ++ applied.flatMap fun r => toBytes 128 r.w.toNat)

/-- Steps 8 and 9: oscillators at step 0, crossings at offset 8; bays keep counting their cycles. -/
def State.startClocks (s : State) : State :=
  let ceil := capCeiling (s.dreg 0x300000)
  { s with
    regions := (upto 37).map fun r => (r, { Region.init with mhz := 2100, freqs := [((s.refCount : Int), 2100)] })
    bays := (upto nBays).map fun b => (b, { Bay.init with cyc := (s.bay b).cyc, ceil })
    xng := (upto nBays).map fun b => (b, ({ Crossing.init with ofsIn := 8, ofsOut := 8, plumbed := true } : Crossing)) }

/-- Step 13: the time root of a device whose counter runs on locks at once; the others seek a parent. -/
def State.lockStep (s : State) : State :=
  let s := { s with ctl := { s.ctl with bootStep := 13 } }
  if s.scr.running && s.isRoot then s.lock else s

/-- Steps 10 to 13. -/
def State.bootLast (s : State) (e : BootEnv) (cold : Bool) : State :=
  let s := (s.trainHbm e).trainDdr e
  let s := if cold then { s with sec := { s.sec with ddrKeys := true } } else s
  let s := s.takeManifest e.manifest
  let record := toBytes 136 s.sec.record
  let x := s.sec
  let meas := lset (lset (lset x.meas 3 (s.patchDigest e)) 4 e.manifest.digest) 5 (Config.digest record)
  ({ s with sec := { x with meas } } : State).lockStep

/-- The crossing of bay b does not plumb (R358). -/
def State.plumbFailed (s : State) (b : Nat) : State :=
  let x := aget Crossing.init s.xng b
  ({ s with xng := aput s.xng b { x with plumbed := false, fail := true } } : State).emit evPlumbFail none (some clsFatal) [b]

/-- Steps 6 to 9, then the rest. -/
def State.bootFirmware (s : State) (e : BootEnv) (cold : Bool) : State :=
  let s := s.applyPatch e cold
  let short := s.shortBays
  if !short.isEmpty then
    let s := short.foldl (fun s b => s.emit evPatchShort none (some clsFatal) [b]) s
    (s.setDreg 0x400000 (setBits (s.dreg 0x400000) 1 1 1)).bootStop 7
  else
    let s := s.startClocks
    let s := e.plumbFail.foldl (fun (s : State) b => s.plumbFailed (b % nBays)) s
    if e.plumbFail.isEmpty then s.bootLast e cold else s.bootStop 9

/-- Step 5: keys and firmware. -/
def State.bootPrimer (s : State) (e : BootEnv) (cold : Bool) : State :=
  let fail (n : Nat) : State := ({ s with sec := { s.sec with boot := n } } : State).bootStop 5
  if !(s.sec.idk && s.sec.dtk) then fail 3
  else match pickCopy e.fwA e.fwB with
    | none => fail 2
    | some (c, isB) =>
      let x := s.sec
      let s := { s with sec := { x with fwB := isB, fwSvn := c.svn, meas := lset x.meas 2 c.digest } }
      (s.copyNoted 2 isB).bootFirmware e cold

/-- Steps 3 and 4: ROM and primer. -/
def State.bootRom (s : State) (e : BootEnv) (cold : Bool) : State :=
  let x := { s.sec with boot := 0, meas := lset (List.replicate 7 0#256) 0 Config.romDigest }
  let s := { s with sec := x, pat := { s.pat with env := some e } }
  match pickCopy e.primerA e.primerB with
  | none => ({ s with sec := { x with boot := 1 } } : State).bootStop 4
  | some (c, isB) =>
    let s := { s with sec := { x with primerB := isB, primerSvn := c.svn, meas := lset x.meas 1 c.digest } }
    (s.copyNoted 1 isB).bootPrimer e cold

/-- A cold power-up: of the module flash the device keeps what it has written (log entry 7). -/
def State.coldBoot (s : State) (e : BootEnv) (cause : Nat) : State :=
  let flash := if s.pat.env.isSome then s.pat.flash else e.records
  let tear (r : PatchRec) : PatchRec := if e.torn.contains (prSerial r) && s.pat.mayTear.contains (prSerial r) then { r with torn := true } else r
  let s := { s with pat := { s.pat with flash := flash.map tear, fresh := [], mayTear := [] } }
  let s := (({ s with ctl := { s.ctl with bootCause := cause, bootStep := 2 } } : State).enter stBooting 0)
  s.bootRom e true

/-- Step 2: the rails come up, or the sequencer removes them (R428). -/
def State.railsUp (s : State) (e : BootEnv) (next : Nat) : State :=
  if e.railsOk then ({ s with rails := 0 } : State).coldBoot e 0 else { s with rails := next }

/-- `PWR_GOOD_ASSERT` (R427). -/
def execPwrGoodAssert (boot : BootEnv) (s : State) : Res :=
  .next (if s.ctl.st == stOff && s.rails == 0 then s.railsUp boot 1 else s)

/-- `RAIL_RETRY` (R428): a second failure leaves the rails off until the input is removed. -/
def execRailRetry (boot : BootEnv) (s : State) : Res :=
  .next (if s.ctl.st == stOff && s.rails == 1 then s.railsUp boot 2 else s)

/-- `PWR_GOOD_DEASSERT` (R426). -/
def execPwrGoodDeassert (s : State) : Res := .next (s.powerOff 0)

/-- `COOLANT_FLOW_LOSS` (R445, R366). -/
def execCoolantFlowLoss (s : State) : Res := .next (if s.clocked then s.powerOff 0 else s)

/-- `DDR_LATCH_OPEN` (R447). -/
def execDdrLatchOpen (ch : Nat) (s : State) : Res := onUnit (decide (ch < 8)) s fun s =>
  if s.clocked then s.powerOff 0 else s

/-- `LOCK_TIMEOUT` (R433). -/
def execLockTimeout (s : State) : Res :=
  .next (if s.ctl.st == stBooting && s.ctl.bootStep == 13 then s.bootDone else s)

/-! ### Tamper (R403) -/

/-- The keys go, the latch records the sensor, the rails are cycled. -/
def State.tamperTrip (s : State) (sensor : Nat) : State :=
  let x := s.sec.erase
  let x := { x with tamper := setBits x.tamper sensor sensor 1, trips := satAdd 16 x.trips 1 }
  let s := ({ s with sec := x } : State).powerOff 0
  match s.pat.env with
  | some e => s.coldBoot e 2
  | none => s

/-- `TAMPER_TRIP` (R403). -/
def execTamperTrip (sensor : Nat) (s : State) : Res := onUnit (decide (sensor < 4)) s fun s =>
  if s.clocked then s.tamperTrip sensor else s

/-! ### Warm reset (R436, R439, R440) -/

/-- A core after a warm reset (Table 19-3). -/
def Core.warmed (k : Core) : Core :=
  { k with
    regs := aput (k.regs.filter fun r => storeWord r.1) rSpScrub 0x100
    sp := { k.sp with seg := [], scrubPos := 0, scrubLeft := 0, scrubWb := [] }
    ext := []
    extWait := []
    pnl := .init
    qs := (upto 8).map fun q => (q, { InQ.init with closed := true })
    rts := []
    mbs := (upto 4).map fun m => (m, { Mbx.init with closed := true })
    halted := false
    sandLast := 0 }

/-- Registers of the device window that a warm reset keeps: the Weight Directory, glaze table, sequence table,
manifest, HBM_BAND, the `SEQ_` configuration, GOV_CAP, the `SEC_` counters, the `PATCH_` registers. -/
def keptAtWarm (off : Nat) : Bool :=
  hubStore off || off == 0x10000 || off == 0x10004 || within off 0x30000 0x30008 || within off 0x30040 0x30054 ||
    off == 0x300000 || within off rAttestCnt rDbgFail || within off 0x400000 0x400010

/-- Every PEND of the Weight Directory set to 0. -/
def State.dropFlips (s : State) : State :=
  (upto 256).foldl (fun s e =>
    let w := s.wd e
    if wdPend w then s.setWd e (setBits w 169 169 0) else s) s

/-- The device's registers after a warm reset. -/
def State.warmRegs (s : State) : State :=
  let kept := s.dregs.filter fun r => keptAtWarm r.1
  ({ s with dregs := kept.foldl (fun m r => aput m r.1 r.2) dregsInit } : State).dropFlips

/-- New physical cores of remapped logical cores hold zero (R436). -/
def State.zeroRemapped (s : State) (old : AMap (List Nat)) : State :=
  (upto nCores).foldl (fun s c =>
    if (aget [] old (c / 56)).getD (c % 56) 64 == (aget [] s.pat.map (c / 56)).getD (c % 56) 64 then s
    else s.modCore c fun k =>
      { k with mx := { k.mx with ws := [], wsPoison := [], wsErr := [] },
               sp := { k.sp with mem := [], poison := [], err := [] } }) s

/-- What a warm reset does before the boot begins again. -/
def State.warmClear (s : State) : State :=
  let s := s.resetCores.mapCores Core.warmed
  let s := (s.zeroMarched s.sand.march).warmRegs
  { s with
    sem := [], semIn := [], semLate := [], semPark := [], semAns := [], lath := []
    scr := { s.scr with locked := false, alignErr := false, refPort := 15, slew := 0, good := 0 }
    fab := { Fab.init with coord := s.fab.coord }
    mem := { s.mem with pageCe := [], merges := [], held := [], hbmWin := [], ddrWin := [], refNext := [] }
    sec := { s.sec with
      jobKey := false, partKey := false, linkKeys := false, session := none, debugOpen := false, jobSigned := false,
      jobEnc := false, chalLive := false }
    sand := { Sand.init with since := s.sand.since }
    expand := none }

/-- RESET (R413, R436): the control port's state starts again and the boot runs from step 3. -/
def State.warmReset (s : State) : State :=
  match s.pat.env with
  | none => s
  | some e =>
    let old := s.pat.map
    let from0 := s.ctl.st
    let s := (if from0 == stRunning then s.cancelFlips else s).warmClear
    let s := { s with ctl := { Ctl.init with st := from0, bootCause := 1, bootStep := 3 } }
    let s := (s.enter stBooting 0x0B).bootRom e false
    s.zeroRemapped old

/-! ### The optical link (R405) -/

/-- `CONTROL_LINK_TRAIN`. -/
def execControlLinkTrain (s : State) : Res :=
  .next (if s.clocked then { s with ctl := { s.ctl with lanes := 15 } } else s)

/-- `CONTROL_LINK_DOWN`: a lane loses lock and takes the link down. -/
def execControlLinkDown (lane : Nat) (s : State) : Res := onUnit (decide (lane < 4)) s fun s =>
  { s with ctl := { s.ctl with lanes := setBits s.ctl.lanes lane lane 0 } }

/-! ### Faults of the device (Table 16-4) -/

/-- `WATCHDOG` (R373): the management core went 10 ms without service. -/
def execWatchdog (s : State) : Res := .next (if s.clocked then s.fatal evWatchdog none [] 1 else s)

/-- `SCRIM_MODULE_FAIL` (R323): a module of one of the eight scrim links. -/
def execScrimModuleFail (link mod : Nat) (s : State) : Res :=
  onUnit (decide (link < 8) && decide (mod < 16)) s fun s =>
    if s.clocked then s.fatal evScrimFail none [link + mod <<< 3] 1 else s

end Sys2Proof.Machine
end

