-- ==== Sys2Proof/Machine/Governor.lean ====
section
/-!
DEFINITION. Clock regions and the governor (R354 to R366, R443, R445, R451): supply droops, frequency steps, thermal
responses, the sensor registers.
-/

namespace Sys2Proof.Machine

/-- Number of clock regions (R354). -/
def nRegions : Nat := 37

/-- Target frequency and droop floor of a step, in MHz (Table 15-2). -/
def targetMhz (step : Nat) : Nat := 2100 - 200 * step
def floorMhz (step : Nat) : Nat := (targetMhz step * 12 + 7) / 14

/-- Target of region r: spines and hub stay at step 0 (R355). -/
def State.target (s : State) (r : Nat) : Nat := targetMhz (if r < nBays then (s.bay r).step else 0)
def State.floorOf (s : State) (r : Nat) : Nat := floorMhz (if r < nBays then (s.bay r).step else 0)

/-- The region runs at a frequency; FMIN takes it. -/
def State.runAt (s : State) (r mhz : Nat) : State :=
  let x := s.region r
  let t := s.refCount
  s.setRegion r { x with mhz, fmin := min x.fmin mhz, freqs := ((t : Int), mhz) :: keepFreqs t x.freqs }

/-- `SUPPLY_DROOP` (R356): the frequency falls, not below the droop floor. -/
def execSupplyDroop (r mhz : Nat) (s : State) : Res := onUnit (decide (r < nRegions)) s fun s =>
  if !s.clocked || mhz < s.floorOf r || s.target r ≤ mhz then s
  else (s.setRegion r { s.region r with droop := true }).runAt r mhz

/-- `SUPPLY_RECOVERY` (R356): the region returns to its target. -/
def execSupplyRecovery (r : Nat) (s : State) : Res := onUnit (decide (r < nRegions)) s fun s =>
  if !s.clocked || !(s.region r).droop then s
  else (s.setRegion r { s.region r with droop := false }).runAt r (s.target r)

/-- `REGION_UV` (R356): the supply falls below the droop floor. -/
def execRegionUv (r : Nat) (s : State) : Res := onUnit (decide (r < nRegions)) s fun s =>
  if s.clocked then s.fatal evRegionUv none [r] 1 else s

/-- `REPLICA_FAIL` (R360): a margin below 0 ps. -/
def execReplicaFail (r : Nat) (s : State) : Res := onUnit (decide (r < nRegions)) s fun s =>
  if s.clocked then s.fatal evReplicaFail none [r] 1 else s

/-! ### Steps (R364) -/

def rGovStep : Nat := 0x300010
def rGovDrop : Nat := 0x300014

/-- The frequency of a region at a step: the target, or under a droop what it was, between the droop floor and the target
(R37, R356). -/
def Region.atStep (x : Region) (step : Nat) : Nat :=
  if x.droop then max (floorMhz step) (min x.mhz (targetMhz step)) else targetMhz step

/-- The bay's oscillator moves to a new step; count and record. In a cycle in which a timed panel starts the crossing
re-centres after the move (R365). -/
def State.setStep (s : State) (b new cause : Nat) : State :=
  let y := s.bay b
  let s := s.setBay b { y with step := new, pstep := none, unacked := [], cause }
  let s := s.runAt b ((s.region b).atStep new)
  let s := if y.timedAt == some y.cyc then s.recentre b else s
  (s.bumpD rGovStep).emit evGovStep none none [b + y.step <<< 5 + new <<< 7 + cause <<< 9]

/-- The pending step is due: every core has acknowledged, or the device is not RUNNING. -/
def State.stepDue (s : State) (b : Nat) : Bool :=
  let y := s.bay b
  y.pstep.isSome && (y.unacked.isEmpty || s.ctl.st != stRunning)

def State.applyStep (s : State) (b : Nat) : State :=
  match (s.bay b).pstep with
  | some p => if s.stepDue b then s.setStep b p (s.bay b).cause else s
  | none => s

/-- `BAY_STEP_APPLY` (R364). -/
def execBayStepApply (b : Nat) (s : State) : Res := onUnit (decide (b < nBays)) s fun s => s.applyStep b

/-! ### The evaluation (R363 to R366) -/

/-- The cap in watts (R361). -/
def State.capWatts (s : State) : Nat := 1500 + 100 * s.dreg 0x300000

/-- GOV_CFG with the limits of Table 15-6. -/
def State.replThresh (s : State) : Nat := bits (s.dreg 0x300008) 15 0
def State.tempHi (s : State) : Nat := min (bits (s.dreg 0x300008) 23 16) 104
def State.tempLo (s : State) : Nat := min (bits (s.dreg 0x300008) 31 24) (s.tempHi - 3)

/-- Cores of bay b that acknowledge at their next panel boundary (R364). -/
def State.inPanels (s : State) (b : Nat) : List Nat :=
  (s.present b).filter fun c => (s.core c).pnl.phase == 2 && !(s.core c).is.stopped

/-- The cause of a down decision: 1 thermal, 2 replica, 3 power; 0 none. -/
def State.downCause (s : State) (b power : Nat) : Nat :=
  if s.tempHi ≤ (s.region b).temp then 1
  else if s.replThresh < (s.region b).warn then 2
  else if s.capWatts * 103 < power * 100 then 3
  else 0

/-- The interval is one of those that let the bay step up. -/
def State.quietNow (s : State) (b power : Nat) : Bool :=
  decide ((s.region b).temp ≤ s.tempLo) && decide ((s.region b).warn ≤ s.replThresh) &&
    decide (power * 100 ≤ s.capWatts * 95)

/-- A decision meets what is pending (R365). -/
def State.takeStep (s : State) (b new cause : Nat) : State :=
  let y := s.bay b
  let down := y.step < new
  let take := (s.setBay b { y with pstep := some new, unacked := s.inPanels b, cause }).applyStep b
  match y.pstep with
  | none => take
  | some p => if down && p < y.step then take else s.bumpD rGovDrop

/-- REPLICA_WARN of region r for the interval that ends (R360). -/
def State.replicaWarn (s : State) (r : Nat) : State :=
  if s.replThresh < (s.region r).warn then s.emit evReplicaWarn none none [r] else s

/-- One bay in one interval (R363). An interval with a trip has decided for every bay. -/
def State.judgeBay (s : State) (power : Nat) (tripped : Bool) (b : Nat) : State :=
  let cause := s.downCause b power
  let quiet := if s.quietNow b power then min 10 ((s.bay b).quiet + 1) else 0
  let y := s.bay b
  let s := s.setBay b { y with quiet }
  if tripped then s
  else if cause != 0 then (if y.step < 3 then s.takeStep b (y.step + 1) cause else s)
  else if 0 < y.step && quiet == 10 then s.takeStep b (y.step - 1) 4
  else s

/-- A hotspot reading, or none, of region r (R366). -/
def State.readHot (s : State) (x : Sensors) (r : Nat) : State :=
  let g := s.region r
  match x.hot[r]? with
  | some (some t) => s.setRegion r { g with temp := t, miss := 0 }
  | _ => s.setRegion r { g with miss := g.miss + 1 }

/-- The region takes the response of the 105 °C row: °C of its record. -/
def State.tripAt (s : State) (x : Sensors) (r : Nat) : Option Nat :=
  match x.hot[r]? with
  | some (some t) => if 105 ≤ t then some t else none
  | _ => if 3 ≤ (s.region r).miss then some 0xFF else none

/-- Fatal errors of the regions that trip; every bay goes to step 3 at once. -/
def State.thermTrip (s : State) (l : List (Nat × Nat)) : State :=
  let s := l.foldl (fun s x => s.fatal evThermTrip none [x.1 + (x.2 % 256) <<< 8] 1) s
  (upto nBays).foldl (fun s b => if (s.bay b).step == 3 then s.setBay b { s.bay b with pstep := none, unacked := [] }
    else s.setStep b 3 5) s

/-- GOV_INPUT, GOV_MODULE and GOV_FLOW (Tables 15-6, 20-5). -/
def State.readModule (s : State) (x : Sensors) : State :=
  let w := min x.power 65535
  let s := s.setDreg 0x30000C (w + (max w (bits (s.dreg 0x30000C) 31 16)) <<< 16)
  let s := s.setDreg 0x300020 (x.vin % 1024 + (x.tin % 256) <<< 16 + (x.tout % 256) <<< 24)
  s.setDreg 0x300024 (x.flow % 256 + b2n (decide (x.flow < 30) || decide (40 < x.tin)) <<< 8 + (x.latch % 256) <<< 16)

/-- One governor interval. -/
def State.govern (s : State) (x : Sensors) : State :=
  let s := (upto nRegions).foldl (fun s r => s.readHot x r) (s.readModule x)
  let s := (upto nRegions).foldl State.replicaWarn s
  let trips := (upto nRegions).filterMap fun r => (s.tripAt x r).map fun t => (r, t)
  let s := if trips.isEmpty then s else s.thermTrip trips
  let s := (upto nBays).foldl (fun s b => s.judgeBay x.power (!trips.isEmpty) b) s
  (upto nRegions).foldl (fun s r => s.setRegion r { s.region r with warn := 0 }) s

/-- Some hotspot is at or above 115 °C. -/
def hotLimit (x : Sensors) : Bool :=
  (upto nRegions).any fun r => match x.hot[r]? with | some (some t) => decide (115 ≤ t) | _ => false

/-- `GOVERNOR_EVALUATION` (R363, R366): in every state with power the rail sequencer answers 115 °C; the governor evaluates
from the moment the clocks run. -/
def execGovernorEvaluation (x : Sensors) (s : State) : Res :=
  .next (if !s.clocked then s else if hotLimit x then s.powerOff 0 else if s.regions.isEmpty then s else s.govern x)

end Sys2Proof.Machine
end

