-- ==== Sys2Proof/Machine/RecorderRows.lean ====
section
/-!
DEFINITION. The event recorder (R418 to R422): storing, folding, filling up, freezing, reading.
-/

namespace Sys2Proof.Machine

/-- Words of the storage. -/
def erSize : Nat := 2 ^ 20

/-- Words 0 and 1 of a record of an event (Table 18-8). -/
def Ev.word0 (e : Ev) (repeats : Nat) : Nat :=
  e.code % 4096 + (6 + e.payload.length) <<< 12 + (repeats % 2 ^ 14) <<< 18

def Ev.word1 (e : Ev) : Nat :=
  (match e.core with | some c => c % 2048 | none => 2048) +
    (match e.cls with | some n => (n % 4) <<< 12 + 1 <<< 14 | none => 0)

/-- A record of an event with no repeat. -/
def Ev.words (e : Ev) : List Nat := [e.word0 0, e.word1] ++ lohi e.tick ++ lohi e.tick ++ e.payload.map (· % 2 ^ 32)

/-- Words from index i on. -/
def putWords : AMap Nat → Nat → List Nat → AMap Nat
  | m, _, [] => m
  | m, i, w :: ws => putWords (aput m i w) (i + 1) ws

def Recorder.word (r : Recorder) (i : Nat) : Nat := if i < r.wptr then aget 0 r.words i else 0

/-- The event repeats the last record stored, which can still fold (R419). -/
def Recorder.folds (r : Recorder) (e : Ev) : Bool :=
  let w := r.word r.last
  r.wptr != 0 && w % 2 ^ 18 == e.word0 0 % 2 ^ 18 && r.word (r.last + 1) == e.word1 && bits w 31 18 != 16383 &&
    (upto e.payload.length).all fun i => r.word (r.last + 6 + i) == e.payload.getD i 0 % 2 ^ 32

/-- A record of words goes to the storage. -/
def Recorder.append (r : Recorder) (ws : List Nat) : Recorder :=
  { r with words := putWords r.words r.wptr ws, last := r.wptr, wptr := r.wptr + ws.length,
           records := satAdd 32 r.records 1 }

/-- An event is stored, folded, or counted (R419 to R421). -/
def Recorder.take (r : Recorder) (e : Ev) : Recorder :=
  if r.frozen then { r with frozenCnt := satAdd 32 r.frozenCnt 1 }
  else if r.full then { r with lost := satAdd 32 r.lost 1 }
  else if r.folds e then
    { r with words := putWords (aput r.words r.last (r.word r.last + 2 ^ 18)) (r.last + 4) (lohi e.tick) }
  else if r.wptr + (6 + e.payload.length) + 6 ≤ erSize then r.append e.words
  else
    let r := r.append (⟨evErFull, none, none, [], e.tick⟩ : Ev).words
    { r with full := true, lost := satAdd 32 r.lost 1 }

/-- `RECORDER_EVENT` (R419): the oldest event leaves the queue. -/
def execRecorderEvent (s : State) : Res :=
  .next (match s.er.q with
    | [] => s
    | e :: q => { s with er := { s.er with q }.take e })

/-- FREEZE and UNFREEZE (R421). -/
def Recorder.freeze (r : Recorder) : Recorder := { r with frozen := true }

def Recorder.unfreeze (r : Recorder) (empty : Bool) : Recorder :=
  if empty then { Recorder.init with q := r.q } else { r with frozen := false }

/-- n bytes of the storage from a byte offset on (R422). -/
def Recorder.bytes (r : Recorder) (off n : Nat) : List Byte :=
  (upto n).map fun i => BitVec.ofNat 8 (r.word ((off + i) / 4) >>> (8 * ((off + i) % 4)))

end Sys2Proof.Machine
end

