-- ==== Sys2Proof/Machine/ControlPort.lean ====
section
/-!
DEFINITION. The control port (R405 to R417): reads and writes of the spaces, frames and their legality, and every
command; the end of a march, which lets a held LOAD go on (R384).
-/

namespace Sys2Proof.Machine

/-! ### The spaces (R289, R290, R410) -/

/-- What n bytes at address a come to before anything moves: the code of an error response, or none. -/
def State.spaceFault (s : State) (a n : Nat) : Option Nat :=
  let x := gaOff a
  let sp := gaSpace a
  if sp == spMmio then (if x % 4 != 0 || n % 4 != 0 then some eAlign else if gaCoord a != s.fab.coord then some eBounds
    else none)
  else if spRec < sp then some eSpace
  else if gaCoord a != s.fab.coord then some eBounds
  else if sp == spHbm || sp == spDdr then (if s.memOk a n then none else some eBounds)
  else if sp == spSp then (if x + n ≤ nCores <<< 20 then none else some eBounds)
  else if sp == spSync then
    (if n % 4 == 0 && (upto (n / 4)).all fun i => (semPlace (x + 4 * i)).isSome then none else some eBounds)
  else if x + n ≤ 4 * erSize then none
  else some eBounds

/-- Bytes of HBM or DDR5, line by line, with what the controllers find in each. The last part is the
offset, from pos on, at which poison begins. -/
def readTier : Nat → State → Nat → Nat → List EccFind → Nat → State × List Byte × Option Nat
  | 0, s, _, _, _, _ => (s, [], none)
  | fuel + 1, s, a, n, e, pos =>
    if n == 0 then (s, [], none)
    else
      let o := gaOff a % 512
      let m := min n (512 - o)
      let r := s.readLine a (e.headD .clean)
      let t := readTier fuel r.1 (a + m) (n - m) e.tail (pos + m)
      (t.1, (r.2.1.drop o).take m ++ t.2.1, if r.2.2 then some pos else t.2.2)

/-- Register words from an offset on; none where one is not defined. -/
def State.readRegs (s : State) (x n : Nat) : Option (List Byte) :=
  ((upto (n / 4)).mapM fun i => s.mmioWord (x + 4 * i)).map fun ws => ws.flatMap (toBytes 4)

/-- A read that touches SEC_DBG_CHAL makes a new challenge (R401). -/
def State.touchChal (s : State) (x n : Nat) : State :=
  if x ≤ 0x1050049C && 0x10500480 < x + n then s.newChallenge else s

/-- What a command is answered (Tables 18-1, 18-2). -/
structure Reply where
  status : Nat
  arg0 : Nat
  arg1 : Nat
  payload : List Byte
deriving DecidableEq, Repr

def Reply.ok (payload : List Byte) : Reply := ⟨0, 0, 0, payload⟩
def Reply.error (code : Nat) : Reply := ⟨4, 0, code, []⟩

/-- Data, with the poison indication where it applies (R370). -/
def Reply.data (bs : List Byte) (bad : Option Nat) : Reply :=
  match bad with
  | some i => ⟨1, i, 0, bs⟩
  | none => .ok bs

/-- READ (R410); the rows of a scratchpad have been read before (R171). -/
def State.cnRead (s : State) (a n : Nat) (e : List EccFind) : State × Reply :=
  let x := gaOff a
  match s.spaceFault a n with
  | some code => (s, .error code)
  | none =>
    if gaSpace a == spMmio then
      let s := s.touchChal x n
      match s.readRegs x n with
      | some bs => (s, .ok bs)
      | none => (s, .error eBounds)
    else if gaSpace a == spHbm || gaSpace a == spDdr then
      let r := readTier (n / 512 + 2) s a n e 0
      (r.1, .data r.2.1 r.2.2)
    else if gaSpace a == spSp then
      match s.ctl.sp with
      | some r => (s, .data r.got r.bad)
      | none => (s, .data [] none)
    else if gaSpace a == spSync then
      (s, .ok ((upto (n / 4)).flatMap fun i => toBytes 4 (s.semVal (x + 4 * i)).toNat))
    else (s, .ok (s.er.bytes x n))

/-- Bytes written to scratchpads from offset x of the SP space on. -/
def writeSp : Nat → State → Nat → List Byte → State
  | 0, s, _, _ => s
  | fuel + 1, s, x, bs =>
    let o := x % 64
    let part := bs.take (64 - o)
    if part.isEmpty then s
    else
      let row : List (Option Byte) :=
        List.replicate o none ++ part.map some ++ List.replicate (64 - o - part.length) none
      writeSp fuel (s.commitRow (x >>> 20) (x % 2 ^ 20 / 64) row false) (x + part.length) (bs.drop part.length)

/-- Registers wider than two words that act when one write covers them (R306, R398, R399, R401): bytes covered, and
the write. -/
def wideWrite (x : Nat) (bs : List Byte) (v : ImageVerdict) : Option (Nat × (State → Written)) :=
  let n := bs.length
  if x == 0x10022000 && 8 ≤ n then some (8, fun s => s.flipWrite (ofBytes (bs.take 8)))
  else if x == 0x10500380 && 136 ≤ n then
    some (136, fun s => s.ownerWrite (BitVec.ofNat 1088 (ofBytes (bs.take 136))) v.sigOk)
  else if x == 0x105004A0 && 64 ≤ n then some (64, fun s => s.debugResponse v.sigOk)
  else if x == 0x10500500 && 116 ≤ n then some (116, fun s => s.sessionWrite v.wrapOk)
  else none

/-- Register words written in order; the first one that is refused ends the write. -/
def writeRegs : Nat → State → Nat → List Byte → ImageVerdict → Written
  | 0, s, _, _, _ => s.wrote
  | fuel + 1, s, x, bs, v =>
    if bs.isEmpty then s.wrote
    else
      let r := match wideWrite x bs v with
        | some (n, f) => (n, f s)
        | none => (4, s.writeWord x (ofBytes (bs.take 4)))
      match r.2 with
      | (t, none) => writeRegs fuel t (x + r.1) (bs.drop r.1) v
      | (t, some code) => t.refusedWith code

/-- Semaphores written from SYNC offset x on (R254). -/
def State.writeSems (s : State) (x : Nat) (bs : List Byte) : State :=
  (upto (bs.length / 4)).foldl
    (fun s i => s.setSem (x + 4 * i) (BitVec.ofNat 32 (ofBytes ((bs.drop (4 * i)).take 4)))) s

/-- WRITE (R290, R410): HBM and DDR5 in any state, SP and SYNC only in IDLE, LOADED and HALTED. -/
def State.cnWrite (s : State) (a : Nat) (bs : List Byte) (v : ImageVerdict) (e : List EccFind) : Written :=
  let x := gaOff a
  match s.spaceFault a bs.length with
  | some code => s.refusedWith code
  | none =>
    if bs.isEmpty then s.wrote
    else if gaSpace a == spMmio then writeRegs (bs.length / 4) s x bs v
    else if gaSpace a == spHbm || gaSpace a == spDdr then (s.writeBytes a bs e).wrote
    else if gaSpace a == spSp then
      if s.writable then (writeSp (bs.length / 64 + 2) s x bs).wrote
      else s.refusedIn (x >>> 20) rSpViol 0x77 a
    else if gaSpace a == spSync then
      if s.writable then (s.writeSems x bs).wrote
      else match semPlace x with
        | some p => if p < nCores then s.refusedIn p rQViol 0xB8 a else s.refusedWith eState
        | none => s.refusedWith eState
    else s.refusedWith eSpace

/-! ### Job images (R395, R396, R411) -/

def segBytes (enc : Bool) : Nat := if enc then 65552 else 65536

/-- The payload begins with the envelope's MAGIC. -/
def hasMagic (p : List Byte) : Bool := decide (4 ≤ p.length) && ofBytes (p.take 4) == 0x51444A31

/-- The envelope as a number (Table 17-5). -/
def envelope (p : List Byte) : Nat := ofBytes (p.take 512)

/-- The image that a FIRST frame begins. -/
def newImage (p : List Byte) : Image :=
  if hasMagic p then
    let e := envelope p
    { env := true, signed := bit e 48, enc := bit e 49, link := bit e 50, length := bits e 127 64,
      digest := BitVec.ofNat 256 (bits e 383 128), bytes := 0, body := [], buf := [] }
  else { env := false, signed := false, enc := false, link := false, length := 0, digest := 0#256, bytes := 0,
         body := [], buf := [] }

/-- The check of R396 that the first LOAD fails, numbered in its order: 1 form, 2 SIG, 3 REQ_SIGNED, 4 wrapped keys. -/
def State.headFault (s : State) (f : Frame) (m : Image) : Option Nat :=
  let e := envelope f.payload
  let form := decide (512 ≤ f.payload.length) && bits e 47 32 == 1 && bits e 63 51 == 0 && bits e 3583 2288 == 0
  if m.env && !form then some 1
  else if m.signed && !(f.image.sigOk && s.sec.owner.isSome) then some 2
  else if s.sec.reqSigned && !m.signed then some 3
  else if (m.enc || m.link) && !(f.image.wrapOk && s.sec.dtk) then some 4
  else none

/-- Segments of a frame, as they are sent. -/
def frameSegs (f : Frame) (m : Image) : List Byte := if f.first && m.env then f.payload.drop 512 else f.payload

def segCount (n : Nat) (enc : Bool) : Nat := (n + segBytes enc - 1) / segBytes enc

/-- The frame carries whole segments; only the last one may be shorter. -/
def wholeSegs (f : Frame) (m : Image) : Bool :=
  let r := (frameSegs f m).length % segBytes m.enc
  r == 0 || (f.last && (!m.enc || 16 < r))

/-- Plaintext of the frame's segments. -/
def frameBody (f : Frame) (m : Image) : List Byte :=
  let raw := frameSegs f m
  if m.enc then f.image.plain.take (raw.length - 16 * segCount raw.length true) else raw

/-- Whole chunks at the front of the buffer are written (R411); what is left, and whether one failed. -/
def writeChunks : Nat → State → List Byte → ImageVerdict → State × List Byte × Bool
  | 0, s, buf, _ => (s, buf, false)
  | fuel + 1, s, buf, v =>
    if buf.length < 16 then (s, buf, false)
    else
      let h := ofBytes (buf.take 16)
      let n := bits h 95 64
      let pad := (n + 15) / 16 * 16
      if bits h 127 96 != 0 then (s, buf, true)
      else if buf.length < 16 + pad then (s, buf, false)
      else
        match s.cnWrite (gaMake s.fab.coord (gaSpace h) (gaOff h)) ((buf.drop 16).take n) v [] with
        | (t, none) => writeChunks fuel t (buf.drop (16 + pad)) v
        | (t, some _) => (t, buf, true)

/-- An image fails (R396): keys erased, record, count, IDLE. -/
def State.imageBad (s : State) (check seg : Nat) : State × Reply :=
  let s := { s with ctl := { s.ctl with img := 0, image := none, nextSeg := 0 },
                    sec := { s.sec with jobKey := false, partKey := false, linkKeys := false } }
  let s := (s.emit evJobImageBad none (some clsViolation) [check, seg]).bumpD rJobBad
  (s.enter stIdle 5, ⟨5, seg, check, []⟩)

/-- A FIRST frame: core resets, the clearings, LOADED, measurement 6 zero (R411, R438, R396). -/
def State.loadBegin (s : State) (m : Image) : State :=
  let s := s.loadClear
  let s := { s with
    ctl := { s.ctl with img := 1, image := some m, nextSeg := 0 }
    sec := { s.sec with jobKey := m.enc, partKey := m.link, jobSigned := false, jobEnc := false,
                        meas := lset s.sec.meas 6 0#256 } }
  if s.ctl.st == stLoaded then s else s.enter stLoaded 5

/-- The LAST frame: 6 digest, 7 byte count, 8 a chunk cut off; then the image is accepted. -/
def State.loadEnd (s : State) (f : Frame) (m : Image) : State × Reply :=
  let seg := s.ctl.nextSeg - 1
  if !m.buf.isEmpty then s.imageBad 8 seg
  else if m.env && !f.image.digestOk then s.imageBad 6 seg
  else if m.env && m.bytes != m.length then s.imageBad 7 seg
  else
    let d := if m.env then m.digest else Config.digest m.body
    ({ s with ctl := { s.ctl with img := 2, image := none },
              sec := { s.sec with jobKey := false, jobSigned := m.signed, jobEnc := m.enc,
                                  meas := lset s.sec.meas 6 d } }, .ok [])

/-- The segments of a frame: 5 a segment's tag, 8 a chunk that is refused. -/
def State.loadSegs (s : State) (f : Frame) (m : Image) : State × Reply :=
  let raw := frameSegs f m
  let body := frameBody f m
  if m.enc && !f.image.tagsOk then s.imageBad 5 s.ctl.nextSeg
  else
    let buf := m.buf ++ body
    let r := writeChunks (buf.length / 16 + 1) s buf f.image
    let m := { m with bytes := m.bytes + body.length, body := m.body ++ body, buf := r.2.1 }
    if r.2.2 then r.1.imageBad 8 ((m.bytes - m.buf.length) / 65536)
    else
      let s := { r.1 with ctl := { r.1.ctl with image := some m,
                                                nextSeg := r.1.ctl.nextSeg + segCount raw.length m.enc } }
      if f.last then s.loadEnd f m else (s, .ok [])

/-- LOAD. A zeroised device refuses it (R401). -/
def State.load (s : State) (f : Frame) : State × Reply :=
  if f.first then
    if !(s.sec.idk && s.sec.dtk) then (s, .error eAuth)
    else
      let m := newImage f.payload
      let s := s.loadBegin m
      match s.headFault f m with
      | some n => s.imageBad n 0
      | none => s.loadSegs f m
  else match s.ctl.image with
    | some m => s.loadSegs f m
    | none => (s, .error eState)

/-! ### START (R27, R268, R346, R373, R378, R397, R416) -/

/-- A field that is reserved for the descriptor's kind is not 0 (Table 02-3). -/
def pdReserved (d : Nat) : Bool :=
  let kind := pdKind d
  bit d 7 || bits d 15 14 != 0 || bits d 23 22 != 0 || bits d 95 80 != 0 || bits d 255 192 != 0 ||
    (kind != 3 && pdWrapTo d != 0) || (kind == 2 && pdStart d != 0) || (kind != 1 && pdFloat d != 0) ||
    (kind == 3 && pdTokens d != 0)

/-- The range of a WRAP at index i: it lies before i, holds no WRAP, and the period exceeds the spread of its starts. -/
def wrapBad (l : List Nat) (i d : Nat) : Bool :=
  let range := (l.take i).drop (pdWrapTo d)
  let starts := (range.filter fun x => pdKind x == 1).map pdStart
  i ≤ pdWrapTo d || (range.any fun x => pdKind x == 3) ||
    match starts.head?, starts.getLast? with
    | some a, some b => decide (pdStart d ≤ b - a)
    | _, _ => false

/-- The nearest timed descriptor before index i starts later. -/
def startBad (l : List Nat) (i d : Nat) : Bool :=
  match ((l.take i).filter fun x => pdKind x == 1).getLast? with
  | some x => decide (pdStart d < pdStart x)
  | none => false

/-- Descriptor i of the table l fails R27. -/
def descBad (l : List Nat) (i : Nat) : Bool :=
  let d := l.getD i 0
  let kind := pdKind d
  (i == 0 && kind != 1) || 3 < kind || pdReserved d || (kind == 3 && wrapBad l i d) || (kind == 1 && startBad l i d)

/-- The table up to its first END, which later descriptors follow unread. -/
def Core.panelTable (k : Core) : List Nat :=
  let l := (upto 256).map k.pdesc
  l.take ((l.findIdx fun d => pdKind d == 0) + 1)

/-- The first descriptor of a core's panel table that fails R27. -/
def Core.tableFault (k : Core) : Option Nat :=
  let l := k.panelTable
  (upto l.length).find? (descBad l)

/-- The first core, with its descriptor, whose table fails. -/
def State.panelFault (s : State) : Option (Nat × Nat) :=
  (upto nCores).findSome? fun c => (s.core c).tableFault.map fun i => (c, i)

/-- A route fails R268; named lists the queues that earlier routes name. -/
def routeBad (w : Nat) (named : List (Nat × Nat)) : Bool :=
  w >>> 45 != 0 ||
    (rtValid w &&
      (nCores ≤ rtCore w ||
        (if rtMailbox w then bit w 15 || rtRing w < 256 || 65536 < rtRing w || rtRing w % 64 != 0
         else rtCoord w != 0 || rtRing w != 0 || named.contains (rtCore w, rtQueue w))))

/-- Every route of the device: core, route, configuration. -/
def State.routes (s : State) : List (Nat × Nat × Nat) :=
  s.cores.flatMap fun x => (upto 8).map fun r => (x.1, r, x.2.rtCfg r)

def routeFault : List (Nat × Nat × Nat) → List (Nat × Nat) → Option (Nat × Nat)
  | [], _ => none
  | (c, r, w) :: l, named =>
    if routeBad w named then some (c, r)
    else routeFault l (if rtValid w && !rtMailbox w then (rtCore w, rtQueue w) :: named else named)

/-- FAB_PART.ENC. -/
def State.encOn (s : State) : Bool := bit (s.dreg64 0x200008) 44

/-- A port of the partition runs, or is listed for, FFP-2 or FFP-1 (R346). -/
def State.oldPort (s : State) : Bool :=
  (upto nPorts).any fun p =>
    let x := s.port p
    x.listed && s.inPartition x.nbr && (x.nbrGen < 3 || x.gen == 1 || x.gen == 2)

/-- The refusal of START: code of Table 18-2, core, index. -/
def State.startFault (s : State) : Option (Nat × Nat × Nat) :=
  if bit (s.dreg 0x400000) 0 then some (3, 0, 0)
  else if bit (s.dreg 0x400000) 3 then some (4, 0, 0)
  else match s.panelFault with
    | some (c, i) => some (1, c, i)
    | none =>
      match routeFault s.routes [] with
      | some (c, r) => some (2, c, r)
      | none =>
        if s.encOn && s.oldPort then some (5, 0, 0)
        else if s.encOn && !s.sec.partKey then some (6, 0, 0)
        else none

/-- START refused: the records and STATUS name the reason (R27, R268, R416). -/
def State.startRefused (s : State) (code core index : Nat) : State :=
  let s := { s with ctl := { s.ctl with refuse := code, rcore := core, rindex := index } }
  let s :=
    if code == 1 then s.emit evPnlTableBad (some core) (some clsViolation) [index]
    else if code == 2 then s.emit evRtTableBad (some core) (some clsViolation) [index]
    else s
  s.emit evStartRefused none none [code]

/-- Inbound queues at START: open, empty, each with the route that feeds it (R268). -/
def startQueues (k : Core) (feeds : List (Nat × Nat × Nat × Nat)) : AMap InQ :=
  (upto 8).map fun q =>
    (q, { InQ.init with
      slots := (k.queue q).slots
      src := (feeds.find? fun x => x.2.1 == q).map fun x => (x.2.2.1, x.2.2.2) })

/-- Routes at START: valid ones OPEN with their credit (R268). -/
def startRoutes (k : Core) : AMap Route :=
  ((upto 8).filter fun r => rtValid (k.rtCfg r)).map fun r =>
    (r, { Route.init with st := 1, credit := if rtMailbox (k.rtCfg r) then rtRing (k.rtCfg r) else 32 })

/-- A core at START: CORE_ENTRY, descriptor 0, open queues and mailboxes (R38, R50, R268). -/
def State.startCore (s : State) (feeds : List (Nat × Nat × Nat × Nat)) (c : Nat) : State :=
  let now := s.scr.now
  let s := s.modCore c fun k =>
    { k with
      is := { k.is with next := k.reg rCoreEntry, delay := false, eligible := k.is.clk, stopped := false, wait := none,
                        holds := [], served := [] }
      pnl := { Panel.init with step := k.pnl.step, prevEnd := now }
      qs := startQueues k (feeds.filter fun x => x.1 == c)
      rts := startRoutes k
      mbs := []
      halted := false }
  s.enterPanel c

/-- The job begins (R23, R397, R416); ports that were lost and are up again come back into use (R347). -/
def State.startJob (s : State) (epoch : Nat) : State :=
  let feeds := (s.routes.filter fun x => rtValid x.2.2 && !rtMailbox x.2.2).map fun x =>
    (rtCore x.2.2, rtQueue x.2.2, x.1, x.2.1)
  let s := s.setDreg64 0x1008 epoch
  let s : State := { s with fab := { s.fab with ports := s.fab.ports.map fun (x : Nat × Port) =>
    (x.1, { x.2 with again := x.2.again && !x.2.up }) } }
  let s := { s with ctl := { s.ctl with fault := none, halt := false, haltBy := 0, endCode := 0 },
                    sec := { s.sec with linkKeys := s.encOn } }
  let s := s.enter stRunning 6
  (upto nCores).foldl (fun s c => s.startCore feeds c) s

def State.start (s : State) (epoch : Nat) : State × Reply :=
  match s.startFault with
  | some (code, c, i) => (s.startRefused code c i, ⟨3, 0, code, []⟩)
  | none => (s.startJob epoch, .ok [])

/-! ### The other commands -/

/-- STOP (R412): issue and engines stop, waits are withdrawn. -/
def State.stopJob (s : State) : State :=
  let s := { s with ctl := { s.ctl with halt := true, haltBy := 2 } }
  let s := s.cores.foldl (fun s x => s.stopEngines x.1) s
  let s := s.withdraw fun _ _ => true
  s.mapCores fun k => ((upto 7).foldl (fun k p => k.setWait p none) k).stop

/-- HALT (R35). A STOP stays the cause of the end. -/
def State.haltJob (s : State) : State :=
  { s with ctl := { s.ctl with halt := true, haltBy := if s.ctl.haltBy == 2 then 2 else 1 } }

/-- SETCAP (R361). -/
def State.setCap (s : State) (cap : Nat) : State :=
  let s := (upto nBays).foldl (fun s b => s.setBay b { s.bay b with ceil := capCeiling cap }) (s.setDreg 0x300000 cap)
  s.emit evCapSet none none [cap]

/-- IDENT (Table 18-3). -/
def State.identBytes (s : State) : List Byte :=
  let part : List Byte := [0x51#8, 0x46#8, 0x56#8, 0x33#8, 0x2D#8, 0x4D#8, 0x32#8, 0x35#8] ++
    (if Config.quickCouplings then [0x51#8] else [0#8]) ++ List.replicate 7 0#8
  part ++ toBytes 8 Config.moduleSerial.toNat ++ toBytes 32 devid.toNat ++ toBytes 2 s.fab.coord ++ toBytes 1 3 ++
    toBytes 2 s.sec.primerSvn ++ toBytes 2 s.sec.fwSvn ++ [0#8]

/-- The signed part of the attestation report, bits 3263 to 0 (Table 17-7). -/
def State.report (s : State) (nonce : List Byte) : Nat :=
  let x := s.sec
  1 + 472 <<< 16 + (s.dreg rAttestCnt) <<< 32 + (s.fab.coord % 4096) <<< 64 + (x.primerSvn % 65536) <<< 80 +
    b2n x.jobSigned <<< 96 + b2n x.jobEnc <<< 97 + b2n s.encOn <<< 98 + b2n x.cpAuth <<< 99 +
    b2n x.reqSigned <<< 100 + b2n s.fab.manOk <<< 101 + (s.scr.now % 2 ^ 64) <<< 128 +
    (ofBytes nonce % 2 ^ 256) <<< 192 + (join 256 ((upto 7).map fun m => (x.meas.getD m 0#256).toNat)) <<< 448 +
    x.idkPub <<< 2240 + x.dtkPub <<< 2752

/-- ATTEST (R400): signed by IDK; a device without IDK signs nothing. -/
def State.attest (s : State) (nonce : List Byte) : State × Reply :=
  if !s.sec.idk then (s, .error eAuth)
  else
    let s := s.bumpD rAttestCnt
    let r := toBytes 408 (s.report nonce)
    (s, .ok (r ++ toBytes 64 (Config.signature 0 (Config.digest r)).toNat))

/-- STATUS (Table 18-7). -/
def State.statusWord (s : State) : Nat :=
  let c := s.ctl
  let f := c.fault.getD ⟨0, 0, 0, 0, 0, none⟩
  c.st % 8 + (c.img % 4) <<< 3 + (c.endCode % 8) <<< 5 + (f.reason % 16) <<< 8 + (f.origin % 4096) <<< 12 +
    (f.core % 2048) <<< 24 + (f.addr % 2 ^ 64) <<< 40 + (c.refuse % 256) <<< 104 + (c.rcore % 2048) <<< 112 +
    (c.rindex % 256) <<< 123 + (c.nextSeg % 2 ^ 32) <<< 160 + (s.dreg 0x400000) <<< 192 + s.sec.statusReg <<< 224 +
    s.sec.tamperReg <<< 256 + s.scrStatusReg <<< 288 + (s.scr.now % 2 ^ 64) <<< 320 + (s.dreg 0x300000 % 16) <<< 384 +
    (s.er.wptr % 2 ^ 21) <<< 416 + b2n s.er.full <<< 437 + b2n s.er.frozen <<< 438 + (s.er.lost % 2 ^ 32) <<< 448 +
    (s.dreg 0x600004) <<< 480

/-! ### Frames (R406 to R408, R415) -/

/-- Largest payload. -/
def maxLen : Nat := 2097152

def cIdent : Nat := 0x01
def cAttest : Nat := 0x02
def cRead : Nat := 0x03
def cWrite : Nat := 0x04
def cLoad : Nat := 0x05
def cStart : Nat := 0x06
def cStop : Nat := 0x07
def cHalt : Nat := 0x08
def cStatus : Nat := 0x09
def cSetcap : Nat := 0x0A
def cReset : Nat := 0x0B
def cFreeze : Nat := 0x0C
def cReadrec : Nat := 0x0D
def cUnfreeze : Nat := 0x0E

/-- The command is legal in the state (Table 18-6). -/
def State.legal (s : State) (cmd : Nat) (first : Bool) : Bool :=
  let st := s.ctl.st
  let faulted := st == stFaulted && !s.ctl.bootFail
  if cmd == cIdent || cmd == cStatus || cmd == cReadrec then true
  else if cmd == cStop || cmd == cHalt then st == stRunning
  else if cmd == cStart then st == stLoaded && s.ctl.img == 2
  else if cmd == cLoad then
    if first then st == stIdle || st == stLoaded || st == stHalted || faulted else st == stLoaded && s.ctl.img == 1
  else s.portOpen

/-- CMD, reserved fields, arguments and LENGTH are such as the command allows (R407, R408, R411). -/
def State.formed (s : State) (cmd : Nat) (f : Frame) : Bool :=
  let n := f.payload.length
  if f.rsv || decide (maxLen < n) || (!f.auth && f.counter != 0) || (cmd != cLoad && (f.first || f.last)) then false
  else if cmd == cAttest then n == 32
  else if cmd == cWrite then true
  else if cmd == cLoad then
    if f.first then f.arg0 == 0 && wholeSegs f (newImage f.payload)
    else f.arg0 == s.ctl.nextSeg && match s.ctl.image with | some m => wholeSegs f m | none => false
  else if n != 0 || cmd == 0 || cUnfreeze < cmd then false
  else if cmd == cRead then 1 ≤ f.arg1 && f.arg1 ≤ maxLen
  else if cmd == cReadrec then f.arg0 % 4 == 0 && f.arg1 % 4 == 0 && f.arg1 ≤ maxLen
  else if cmd == cSetcap then f.arg1 ≤ 10
  else true

/-- What a command that is legal does, and its reply. -/
def State.perform (s : State) (cmd : Nat) (f : Frame) : State × Reply :=
  if cmd == cIdent then (s, .ok s.identBytes)
  else if cmd == cAttest then s.attest f.payload
  else if cmd == cRead then s.cnRead f.arg0 f.arg1 f.ecc
  else if cmd == cWrite then
    match s.cnWrite f.arg0 f.payload f.image f.ecc with
    | (t, none) => (t, .ok [])
    | (t, some code) => (t, .error code)
  else if cmd == cLoad then s.load f
  else if cmd == cStart then s.start f.arg0
  else if cmd == cStop then (s.stopJob, .ok [])
  else if cmd == cHalt then (s.haltJob, .ok [])
  else if cmd == cStatus then (s, .ok (toBytes 64 s.statusWord))
  else if cmd == cSetcap then (s.setCap (f.arg1 % 16), .ok [])
  else if cmd == cFreeze then ({ s with er := s.er.freeze }, .ok [])
  else if cmd == cReadrec then
    (s, if f.arg0 + f.arg1 ≤ 4 * erSize then .ok (s.er.bytes f.arg0 f.arg1) else .error eBounds)
  else if cmd == cUnfreeze then ({ s with er := s.er.unfreeze (bit f.arg1 0) }, .ok [])
  else (s, .ok [])

/-- A reply leaves; it carries a session tag under the request's counter (R398). -/
def State.reply (s : State) (cmd : Nat) (f : Frame) (r : Reply) : State :=
  (s.bumpD 0x600014).send
    (.reply cmd f.tag r.status r.arg0 r.arg1 r.payload (if f.auth then some f.counter else none))

/-- A request reaches the head of the order (R408, R415); RESET acts after its reply (R413). -/
def State.serve (s : State) (cmd : Nat) (f : Frame) : State :=
  let s := s.bumpD 0x600010
  if s.legal cmd f.first && s.formed cmd f then
    let r := s.perform cmd f
    let s := r.1.reply cmd f r.2
    if cmd == cReset then s.warmReset else s
  else
    let s := (s.bumpD 0x600004).emit evCmdIgnored none none [cmd % 256 + (f.tag % 65536) <<< 8 + s.ctl.st <<< 24]
    s.reply cmd f ⟨2, 0, 0, []⟩

/-- The request that opens a session, accepted outside one (R398). -/
def State.opensSession (s : State) (cmd : Nat) (f : Frame) : Bool :=
  cmd == cWrite && f.arg0 == s.mmioAddr 0x10500500 && f.payload.length == 116

/-- The session check (R398): a frame with a tag needs a session, a tag that verifies and a counter that has not been
used; with CP_AUTH a frame without a tag is accepted only for some commands. -/
def State.sessionOk (s : State) (cmd : Nat) (f : Frame) : Bool :=
  if f.auth then
    match s.sec.session with
    | some n => f.tagOk && decide (n ≤ f.counter)
    | none => false
  else !s.sec.cpAuth || cmd == cIdent || cmd == cAttest || cmd == cStatus || s.opensSession cmd f

/-- The counter of an accepted frame is used up. -/
def State.useCounter (s : State) (f : Frame) : State :=
  if f.auth then { s with sec := { s.sec with session := some (f.counter + 1) } } else s

/-- Where the whole chunks at the front of a LOAD's buffer go: address and length of each. -/
def chunkSpans : Nat → List Byte → List (Nat × Nat)
  | 0, _ => []
  | fuel + 1, buf =>
    if buf.length < 16 then []
    else
      let h := ofBytes (buf.take 16)
      let n := bits h 95 64
      let pad := (n + 15) / 16 * 16
      if buf.length < 16 + pad then [] else (gaMake 0 (gaSpace h) (gaOff h), n) :: chunkSpans fuel (buf.drop (16 + pad))

/-- The memory that a request touches, as addresses and lengths. -/
def State.touched (s : State) (cmd : Nat) (f : Frame) : List (Nat × Nat) :=
  if cmd == cRead then [(f.arg0, f.arg1)]
  else if cmd == cWrite then [(f.arg0, f.payload.length)]
  else if cmd == cLoad then
    match if f.first then some (newImage f.payload) else s.ctl.image with
    | some m =>
      let buf := m.buf ++ frameBody f m
      chunkSpans (buf.length / 16 + 1) buf
    | none => []
  else []

/-- What the accesses of a request wait for before they are served, if they must wait: the last refresh window among those
that its lines are in now (R295, R301; DESIGN CHOICE: all of them are then served at once, log entry 111), or the rows of a
scratchpad, which are read one by one (R171). -/
def State.beginAccess (s : State) (cmd : Nat) (f : Frame) : Option State :=
  if !(s.legal cmd f.first && s.formed cmd f) then none
  else if cmd == cRead && gaSpace f.arg0 == spSp && (s.spaceFault f.arg0 f.arg1).isNone then
    some { s with ctl := { s.ctl with sp := some ⟨gaOff f.arg0, f.arg1, [], none⟩ } }
  else
    let mem := (s.touched cmd f).filter fun x =>
      (gaSpace x.1 == spHbm || gaSpace x.1 == spDdr) && (s.spaceFault (gaMake s.fab.coord (gaSpace x.1) (gaOff x.1)) x.2).isNone
    let t := mem.foldl (fun t x => max t (s.accessEnd x.1 x.2)) 0
    if s.refCount < t then some { s with ctl := { s.ctl with busy := some t } } else none

/-- The first waiting request must wait on: a LOAD for the end of a march (R384), a request for its memory accesses. -/
def State.stillHeld (s : State) (cmd : Nat) : Bool :=
  (cmd == cLoad && s.sand.march != 0) || (s.ctl.sp.any fun r => r.left != 0) || s.ctl.busy.any fun t => decide (s.refCount < t)

/-- Requests that waited are served in order, up to one that must wait (R408, R415). -/
def State.serveHeld (s : State) : Nat → State
  | 0 => s
  | n + 1 =>
    match s.ctl.q with
    | [] => s
    | (cmd, f) :: q =>
      if s.stillHeld cmd then s
      else
        match if s.ctl.sp.isSome || s.ctl.busy.isSome then none else s.beginAccess cmd f with
        | some t => t
        | none =>
          let s := ({ s with ctl := { s.ctl with q } } : State).serve cmd f
          ({ s with ctl := { s.ctl with busy := none, sp := none } } : State).serveHeld n

/-- A frame arrives at the port (R405 to R408): at most 32 requests wait. -/
def State.frame (s : State) (cmd : Nat) (f : Frame) : State :=
  if !s.clocked || s.ctl.lanes != 15 then s
  else if !f.crcOk then s.bumpD 0x600008
  else if !s.sessionOk cmd f then (s.bumpD 0x600008).bumpD rAuthFail
  else
    let s := s.useCounter f
    if s.ctl.q.isEmpty then
      ({ s with ctl := { s.ctl with q := [(cmd, f)] } } : State).serveHeld 1
    else if 32 ≤ s.ctl.q.length then s.bumpD 0x60000C
    else { s with ctl := { s.ctl with q := s.ctl.q ++ [(cmd, f)] } }

/-! ### The commands -/

/-- `IDENT` (R410). -/
def execIdent (f : Frame) (s : State) : Res := .next (s.frame cIdent f)

/-- `ATTEST` (R400). -/
def execAttest (f : Frame) (s : State) : Res := .next (s.frame cAttest f)

/-- `READ` (R410). -/
def execRead (f : Frame) (s : State) : Res := .next (s.frame cRead f)

/-- `WRITE` (R410). -/
def execWrite (f : Frame) (s : State) : Res := .next (s.frame cWrite f)

/-- `LOAD` (R411). -/
def execLoad (f : Frame) (s : State) : Res := .next (s.frame cLoad f)

/-- `START` (R416). -/
def execStart (f : Frame) (s : State) : Res := .next (s.frame cStart f)

/-- `STOP` (R412). -/
def execStop (f : Frame) (s : State) : Res := .next (s.frame cStop f)

/-- `HALT` (R35). -/
def execHalt (f : Frame) (s : State) : Res := .next (s.frame cHalt f)

/-- `STATUS` (R417). -/
def execStatus (f : Frame) (s : State) : Res := .next (s.frame cStatus f)

/-- `SETCAP` (R361). -/
def execSetcap (f : Frame) (s : State) : Res := .next (s.frame cSetcap f)

/-- `RESET` (R436). -/
def execReset (f : Frame) (s : State) : Res := .next (s.frame cReset f)

/-- `FREEZE` (R421). -/
def execFreeze (f : Frame) (s : State) : Res := .next (s.frame cFreeze f)

/-- `READREC` (R422). -/
def execReadrec (f : Frame) (s : State) : Res := .next (s.frame cReadrec f)

/-- `UNFREEZE` (R421). -/
def execUnfreeze (f : Frame) (s : State) : Res := .next (s.frame cUnfreeze f)

/-- `ILLEGAL_COMMAND` (R408): a frame whose CMD may be reserved. -/
def execIllegalCommand (cmd : Nat) (f : Frame) (s : State) : Res := .next (s.frame (cmd % 256) f)

/-- `MARCH_DONE` (R384). -/
def execMarchDone (found : MarchFindings) (s : State) : Res :=
  .next (if s.sand.march == 0 then s
    else
      let s := s.marchEnd found
      s.serveHeld s.ctl.q.length)

end Sys2Proof.Machine
end

