-- ==== Sys2Proof/Machine/CtlSlot.lean ====
section
/-!
DEFINITION. Operations of the control slot (R176 to R178, R222 to R225, R255 to R277).
-/

namespace Sys2Proof.Machine

/-- `SGO` (R223; Tables 08-1, 10-1, 11-3, value 0x01). -/
def execSgo (c : Nat) (s : State) : Res := issueCtl c 0x01 s

/-- `SPLD` (R224; Tables 08-1, 10-1, 11-3, value 0x02). -/
def execSpld (c : Nat) (s : State) : Res := issueCtl c 0x02 s

/-- `SSTOP` (R225; Tables 08-1, 10-1, 11-3, value 0x03). -/
def execSstop (c : Nat) (s : State) : Res := issueCtl c 0x03 s

/-- `Q_SEND` (R270; Tables 08-1, 10-1, 11-3, value 0x10). -/
def execQSend (c : Nat) (s : State) : Res := issueCtl c 0x10 s

/-- `Q_RECV` (R269; Tables 08-1, 10-1, 11-3, value 0x11). -/
def execQRecv (c : Nat) (s : State) : Res := issueCtl c 0x11 s

/-- `MB_SEND` (R275; Tables 08-1, 10-1, 11-3, value 0x14). -/
def execMbSend (c : Nat) (s : State) : Res := issueCtl c 0x14 s

/-- `MB_FREE` (R277; Tables 08-1, 10-1, 11-3, value 0x15). -/
def execMbFree (c : Nat) (s : State) : Res := issueCtl c 0x15 s

/-- `SEM_WAIT` (R255; Tables 08-1, 10-1, 11-3, value 0x18). -/
def execSemWait (c : Nat) (s : State) : Res := issueCtl c 0x18 s

/-- `SEM_WSUB` (R255; Tables 08-1, 10-1, 11-3, value 0x19). -/
def execSemWsub (c : Nat) (s : State) : Res := issueCtl c 0x19 s

/-- `SEM_ADD` (R255, R262; Tables 08-1, 10-1, 11-3, value 0x1A). -/
def execSemAdd (c : Nat) (s : State) : Res := issueCtl c 0x1A s

/-- `SEM_SUB` (R255, R262; Tables 08-1, 10-1, 11-3, value 0x1B). -/
def execSemSub (c : Nat) (s : State) : Res := issueCtl c 0x1B s

/-- `STLD` (R177; Tables 08-1, 10-1, 11-3, value 0x30). -/
def execStld (c : Nat) (s : State) : Res := issueCtl c 0x30 s

/-- `STGO` (R178; Tables 08-1, 10-1, 11-3, value 0x31). -/
def execStgo (c : Nat) (s : State) : Res := issueCtl c 0x31 s

/-- `STLDGO` (R176; Tables 08-1, 10-1, 11-3, value 0x32). -/
def execStldgo (c : Nat) (s : State) : Res := issueCtl c 0x32 s

end Sys2Proof.Machine
end

