-- ==== Sys2Proof/Machine/Queues.lean ====
section
/-!
DEFINITION. What arrives at a core over the lath (R270 to R277): messages, credits, close notices, mailbox records.
-/

namespace Sys2Proof.Machine

/-- The two items travel in one stream of R16: queue messages, or records, of one core to one core. -/
def LathMsg.sameStream : LathMsg → LathMsg → Bool
  | .msg a b _ _ _, .msg c d _ _ _ => a == c && b == d
  | .record a b _ _ _, .record c d _ _ _ => a == c && b == d
  | _, _ => false

/-- No earlier item of its stream is on the lath. -/
def State.foremost (s : State) (m : LathMsg) : Bool :=
  match s.lath.find? m.sameStream with
  | some x => x == m
  | none => true

/-- The first item on the lath that satisfies p is taken off it, in the order of its stream (R16). -/
def State.offLath (s : State) (p : LathMsg → Bool) : Option (LathMsg × State) :=
  match takeFirst (fun m => p m && s.foremost m) s.lath with
  | some (m, rest) => some (m, { s with lath := rest })
  | none => none

/-! ### What is on the lath for a core -/

/-- A message for queue q of core c. -/
def LathMsg.forQueue (c q : Nat) : LathMsg → Bool
  | .msg _ d n _ _ => d == c && n == q
  | _ => false

/-- A record for mailbox m of core c. -/
def LathMsg.forMbx (c m : Nat) : LathMsg → Bool
  | .record _ d n _ _ => d == c && n == m
  | _ => false

/-- A credit for route r of core c. -/
def LathMsg.creditFor (c r : Nat) : LathMsg → Bool
  | .credit d n => d == c && n == r
  | _ => false

/-- A close notice for route r of core c. -/
def LathMsg.closeFor (c r : Nat) : LathMsg → Bool
  | .close d n => d == c && n == r
  | _ => false

/-- Freed bytes for route r of core c. -/
def LathMsg.bytesFor (c r : Nat) : LathMsg → Bool
  | .mbCredit d n _ => d == c && n == r
  | _ => false

/-- `QUEUE_MESSAGE_ARRIVAL` (R270, R271): queued, or discarded at a closed queue. -/
def execQueueMessageArrival (c q : Nat) (s : State) : Res :=
  onUnit (decide (c < nCores) && decide (q < 8)) s fun s =>
    match s.offLath (LathMsg.forQueue c q) with
    | some (.msg _ _ _ ws _, s) => s.modCore c fun k =>
        let x := k.queue q
        if x.closed then k.bump (rQDisc q)
        else
          let slot := (x.head + x.msgs.length) % 32
          let words := (upto 4).map fun i => (ws.getD i 0#32).toNat
          k.setQueue q { x with msgs := x.msgs ++ [ws], slots := aput x.slots slot (join 32 words) }
    | _ => s

/-- `CREDIT_RETURN` (R270). -/
def execCreditReturn (c r : Nat) (s : State) : Res :=
  onUnit (decide (c < nCores) && decide (r < 8)) s fun s =>
    match s.offLath (LathMsg.creditFor c r) with
    | some (_, s) => s.modCore c fun k => let x := k.route r; k.setRoute r { x with credit := x.credit + 1 }
    | none => s

/-- A close notice reaches an OPEN route (R272). -/
def Core.sever (k : Core) (r : Nat) : Core :=
  let x := k.route r
  if x.st == 1 then k.setRoute r { x with st := 2 } else k

/-- `CLOSE_NOTICE` (R272). -/
def execCloseNotice (c r : Nat) (s : State) : Res :=
  onUnit (decide (c < nCores) && decide (r < 8)) s fun s =>
    match s.offLath (LathMsg.closeFor c r) with
    | some (_, s) => s.modCore c fun k => k.sever r
    | none => s

/-- Freed bytes reach the route (R277). -/
def Core.addBytes (k : Core) (r n : Nat) : Core := let x := k.route r; k.setRoute r { x with credit := x.credit + n }

/-- `MAILBOX_CREDIT` (R277). -/
def execMailboxCredit (c r : Nat) (s : State) : Res :=
  onUnit (decide (c < nCores) && decide (r < 8)) s fun s =>
    match s.offLath (LathMsg.bytesFor c r) with
    | some (.mbCredit _ _ n, s) => s.modCore c fun k => k.addBytes r n
    | _ => s

/-- A record arrives at mailbox m: its rows, numbered from the ring's first row, join the landing queue; a closed
mailbox discards it (R271, R276). A remote sender is answered. -/
def State.recordArrives (s : State) (sender c m : Nat) (rows : List ExtRow) : State :=
  let k := s.core c
  if (k.mbx m).closed then s.setCore c (k.bump (rMbxDisc m))
  else
    let base := mbBase (k.mbxCfg m)
    s.setCore c (k.arrive (s.cyc c) sender (rows.map fun r => { r with row := (base + r.row) % nRows }))

/-- The landed record of mailbox m whose rows have been visible longest. -/
def Core.landedRecord (k : Core) (m cyc : Nat) : Option (ExtWait × List ExtWait) :=
  takeFirst (fun x : ExtWait => decide (x.visAt ≤ cyc) && match x.fin with
    | .record n _ _ _ => n == m
    | _ => false) k.extWait

/-- A record of size bytes has landed behind those that are not freed. -/
def Mbx.took (x : Mbx) (ring size : Nat) : Mbx :=
  { x with landed := x.landed + size, heads := x.heads ++ [(x.roff + x.landed) % max 1 ring] }

/-- `MAILBOX_RECORD_LAND` (R276): a record whose rows are visible is posted; where none is, the next record on the
lath for this mailbox arrives (log entry 17). -/
def execMailboxRecordLand (c m : Nat) (s : State) : Res :=
  onUnit (decide (c < nCores) && decide (m < 4)) s fun s =>
    let k := s.core c
    match k.landedRecord m (s.cyc c) with
    | some (⟨.record _ size _ answer, _⟩, rest) =>
      let x := k.mbx m
      let k := ({ k with extWait := rest } : Core).setMbx m (x.took (64 * mbRows (k.mbxCfg m)) size)
      let s := (s.setCore c (k.bump (rMbxRec m))).ownPost c (mbSem (k.mbxCfg m)) noSerial
      (match answer with
        | some (y, t, a) => (({ s with fab := { s.fab with inb := s.fab.inb - 1 } } : State).fabSend 0x26 y t a [] false []).1
        | none => s)
    | _ =>
      match s.offLath (LathMsg.forMbx c m) with
      | some (.record src _ _ rows _, s) => s.recordArrives src c m rows
      | _ => s

end Sys2Proof.Machine
end

