-- ==== Sys2Proof/Machine/Streams.lean ====
section
/-!
DEFINITION. Stream instructions (R225 to R240) and the line requests of transfers.
-/

namespace Sys2Proof.Machine

/-- The engine may execute its next instruction in this cycle, and it is the one with opcode op. -/
def Core.seAt (k : Core) (n op cyc : Nat) : Bool :=
  let e := k.engine n
  e.run == 1 && decide (e.nextAt ≤ cyc) && e.wait.isNone && !e.fence && e.xfer.isNone &&
    siOp (k.sInstr n e.pc) == op

/-- The engine goes on to instruction j; a step past 31 is a violation (R227). -/
def State.seGoto (s : State) (c n : Nat) (e : Engine) (j : Nat) : State :=
  let s' := s.modCore c fun k => k.setEngine n { e with pc := min j 31, nextAt := s.cyc c + 1 }
  if j > 31 then s'.seViol c n 4 6 31 else s'

/-- After an instruction comes the next one. -/
def State.seNext (s : State) (c n : Nat) (e : Engine) : State := s.seGoto c n e (e.pc + 1)

/-- One instruction of an engine of core c: f gives its effect on the state from the engine and the word. -/
def seInstr (c n op : Nat) (s : State) (f : State → Engine → Nat → State) : Res :=
  onUnit (decide (c < nCores) && decide (n < 4)) s fun s =>
    let k := s.core c
    if k.seAt n op (s.cyc c) then f s (k.engine n) (k.sInstr n (k.engine n).pc) else s

/-- `SEND` (R225): the engine drains. -/
def execSend (c e : Nat) (s : State) : Res := seInstr c e 0x00 s fun s _ _ => s.stopEngine c e

/-- `SBASE` (R228). -/
def execSbase (c e : Nat) (s : State) : Res := seInstr c e 0x01 s fun s g w =>
  s.seNext c e { g.setAr (siD w) (addA ((s.core c).htAddr (siH w)) (siImm w)) with
    bind := aput g.bind (siD w) (siH w) }

/-- `SLDI` (Table 10-2): the register becomes unbound. -/
def execSldi (c e : Nat) (s : State) : Res := seInstr c e 0x02 s fun s g w =>
  let v :=
    if siSelA w == 0 then addA 0 (siImm w) else if siSelA w == 1 then g.p0 else if siSelA w == 2 then g.p1
    else g.p1 * 2 ^ 32 + g.p0
  s.seNext c e { g.setAr (siD w) v with bind := adel g.bind (siD w) }

/-- `SADD` (Table 10-2): the binding stays. -/
def execSadd (c e : Nat) (s : State) : Res := seInstr c e 0x03 s fun s g w =>
  let v : Int :=
    if siSelA w == 0 then siImm w else if siSelA w == 1 then (g.arg (siS w) : Int)
    else if siSelA w == 2 then (g.p0 : Int) else (g.p1 : Int)
  s.seNext c e (g.setAr (siD w) (addA (g.arg (siD w)) v))

/-- `SWRAP` (R235). -/
def execSwrap (c e : Nat) (s : State) : Res := seInstr c e 0x04 s fun s g w =>
  let a := g.arg (siD w)
  match g.handle (siD w) with
  | none => s.seViol c e 5 6 g.pc
  | some h =>
    if siImm w ≤ 0 || siImm w % 512 != 0 then s.seViol c e 7 6 a
    else
      let b := (s.core c).htAddr h
      s.seNext c e (g.setAr (siD w) (b + addA a (-(b : Int)) % (siImm w).toNat))

/-- A transfer starts; its line requests follow (R230). Index and page words are read anew (R232, R233). -/
def State.startXfer (s : State) (c n : Nat) (e : Engine) : State :=
  s.modCore c fun k => k.setEngine n
    { e with xfer := some ⟨0, e.execs, [], none⟩, execs := e.execs + 1, wordRows := [] }

/-- `SREAD` (R230). -/
def execSread (c e : Nat) (s : State) : Res := seInstr c e 0x08 s fun s g _ => s.startXfer c e g

/-- `SWRITE` (R231). -/
def execSwrite (c e : Nat) (s : State) : Res := seInstr c e 0x09 s fun s g _ => s.startXfer c e g

/-- `SGATH` (R232, R233). -/
def execSgath (c e : Nat) (s : State) : Res := seInstr c e 0x0A s fun s g _ => s.startXfer c e g

/-- `SLOOP` (R234). -/
def execSloop (c e : Nat) (s : State) : Res := seInstr c e 0x10 s fun s g w =>
  let v := if siSelC w == 0 then siVal w else if siSelC w == 1 then g.p0 else g.p1
  s.seNext c e { g with lp := aput g.lp (siD w) v }

/-- `SNEXT` (R234). -/
def execSnext (c e : Nat) (s : State) : Res := seInstr c e 0x11 s fun s g w =>
  let n := g.lpc (siD w)
  if 1 < n then s.seGoto c e { g with lp := aput g.lp (siD w) (n - 1) } (siTarget w)
  else s.seNext c e { g with lp := aput g.lp (siD w) 0 }

/-- `SWAIT` (R236): the wait leaves for its home. -/
def execSwait (c e : Nat) (s : State) : Res := seInstr c e 0x18 s fun s g w =>
  let a := g.arg (siD w)
  match seAccess (s.core c) s.fab.coord c g (siD w) a 4 (siSub w) 0 with
  | some x => s.seViol c e x.1 6 x.2
  | none =>
    let r := s.beginWait c (3 + e) a (siVal w) (siSub w)
    if r.2 then r.1 else r.1.seSemError c e a

/-- The add of an SPOST leaves and the engine continues (R237). -/
def State.seSpost (s : State) (c n : Nat) (e : Engine) (w : Nat) : State :=
  let a := e.arg (siD w)
  match seAccess (s.core c) s.fab.coord c e (siD w) a 4 true 0 with
  | some x => s.seViol c n x.1 6 x.2
  | none =>
    let r := s.postSend c (3 + n) a (sext 32 (siVal w))
    if r.2 then r.1.seNext c n { e with fence := false } else r.1.seSemError c n a

/-- `SPOST` (R237): the fence holds the engine while lines are outstanding. -/
def execSpost (c e : Nat) (s : State) : Res := seInstr c e 0x19 s fun s g w =>
  if (s.core c).tags e == 0 then s.seSpost c e g w
  else s.modCore c fun k => k.setEngine e { g with fence := true }

/-- `SPOST_RELEASE` (R237): every earlier line request is complete. -/
def execSpostRelease (c e : Nat) (s : State) : Res :=
  onUnit (decide (c < nCores) && decide (e < 4)) s fun s =>
    let k := s.core c
    let g := k.engine e
    if g.run == 1 && g.fence && k.tags e == 0 then s.seSpost c e g (k.sInstr e g.pc) else s

/-- `SRATE` (R239): the bucket's level is clipped to the new capacity. -/
def execSrate (c e : Nat) (s : State) : Res := seInstr c e 0x1C s fun s g w =>
  s.seNext c e { g with rate := siRate w, burst := siBurst w, tagq := if siTagq w == 0 then 16 else siTagq w,
                        bucket := min g.bucket ((siBurst w + 1) * 8192) }

/-- `SPLD_DONE` (R224): the program memory holds the rows seven cycles after the last read; a poisoned row is a fault
(R371). -/
def execSpldDone (c e : Nat) (s : State) : Res :=
  onUnit (decide (c < nCores) && decide (e < 4)) s fun s =>
    let k := s.core c
    match takeFirst (fun r : Reader => r.kind == 4 && r.eng == e) k.readers with
    | none => s
    | some (r, rest) =>
      if r.got.length < r.n || decide (s.cyc c < r.lastAt + 7) then s
      else
        let w := join 512 (r.got.map fun x => x.1.toNat)
        let k := (upto 64).foldl (fun k j => k.setReg (rSeProg e 0 + 4 * j) (w >>> (32 * j))) { k with readers := rest }
        let s := s.setCore c k
        match (upto 4).find? fun j => (r.got.getD j (0#512, false)).2 with
        | some j => (s.stopEngine c e).poisonFault c 5 6 (64 * (r.row + j))
        | none => s

/-! ### Line requests (R238 to R243) -/

/-- What LINE_REQUEST decides before it issues. -/
inductive LineStep where
  | wait
  | hold (reg : Nat)
  | bad (row addr : Nat)
  | poison (row : Nat)
  | go (src dst : Nat)
deriving DecidableEq, Repr

/-- The next line of an engine's transfer in this cycle, were it the only engine (R238). -/
def ownLineStep (k : Core) (coord c n cyc : Nat) (e : Engine) (x : Xfer) : LineStep :=
  let w := k.sInstr n e.pc
  let wbad := wordBad k coord c e w x.i
  let word := (e.wordAddr w x.i).bind e.wordAt
  if e.nextAt > cyc || !k.is.granted then .wait
  else if (e.wordAddr w x.i).isSome && wbad.isNone && word.isNone then .wait
  else
    let src := e.lineSrc w x.i
    let bad := match wbad with
      | some y => some y
      | none => src.bind fun a => lineBad k coord c e w x.i a
    let unread := siOp w == 0x09 && decide (x.rows.length < 8) &&
      (match src with
        | some a => (seAccess k coord c e (siD w) a 512 false 1).isNone && lineAligned a
        | none => false)
    let bucket := e.rate == 0 || decide (8192 ≤ e.bucket)
    let tag := decide (k.tags n < e.tagq) && k.freeTag.isSome && !(k.lines.any fun l => l.at0 == cyc)
    if unread then .wait
    else if !bucket && !tag then .wait
    else if !bucket then .hold (rSeRegHold n)
    else if !tag then .hold (rSeTagHold n)
    else match bad with
      | some y => .bad y.1 y.2
      | none =>
        match word with
        | some (_, true) => .poison (rowOf ((e.wordAddr w x.i).getD 0))
        | _ => match src with
          | some a => .go a (e.lineDst w x.i)
          | none => .wait

/-- Engine n issues its next line request in this cycle if no lower engine does. -/
def Core.lineReady (k : Core) (coord c cyc n : Nat) : Bool :=
  let e := k.engine n
  match e.run, e.xfer with
  | 1, some x => (match ownLineStep k coord c n cyc e x with | .go _ _ => true | _ => false)
  | _, _ => false

/-- The next line of an engine's transfer in this cycle (R238). The one tag of a cycle goes to the lowest-numbered
eligible engine, whichever command comes first (R240). -/
def lineStep (k : Core) (coord c n cyc : Nat) (e : Engine) (x : Xfer) : LineStep :=
  match ownLineStep k coord c n cyc e x with
  | .go src dst => if (upto n).any (k.lineReady coord c cyc) then .hold (rSeTagHold n) else .go src dst
  | r => r

/-- The registers of an execution after its last request (R230, R232, R233). -/
def Engine.incremented (e : Engine) (w : Nat) : Engine :=
  if !siInc w then e
  else
    let n : Int := siLines w
    let e' := if siOp w != 0x0A then e.setAr (siD w) (addA (e.arg (siD w)) (siSstr w * n))
      else if siPage w then e.setAr (siPos w) (addA (e.arg (siPos w)) (siSstr w * n))
      else e.setAr (siX w) (addA (e.arg (siX w)) (4 * n))
    e'.setAr (siDst w) (addA (e'.arg (siDst w)) (siDstr w * n))

/-- The line request leaves the core: to another device, or to a memory of this one (R238). Where the source answers
with an error (R247, R332, R334), the line waits for that answer. -/
def State.sendLine (s : State) (c : Nat) (l : Line) (ok : Bool) : State :=
  let s := s.modCore c fun k => { k with lines := k.lines ++ [{ l with bad := !ok }] }
  if !ok || gaCoord l.mem == s.fab.coord then s
  else
    let r := s.fabRequest (if l.write then 0x02 else 0x01) c (3 + l.eng) 0 l.tag (gaCoord l.mem) l.mem 0
      (l.data.flatMap fun r => toBytes 64 r.1.toNat) (l.data.any (·.2)) []
    if r.2 then r.1 else r.1.modCore c fun k => k.setLine l.tag { l with bad := true }

/-- The request of line i is issued (R238 to R243, R304). It takes 512 bytes from the bucket at every RATE; a bucket that
holds less, which RATE 0 allows, is left empty (DESIGN CHOICE, log entry 100). -/
def State.issueLine (s : State) (c n : Nat) (e : Engine) (x : Xfer) (src dst : Nat) : State :=
  let k := s.core c
  let cyc := s.cyc c
  let w := k.sInstr n e.pc
  let wr := siOp w == 0x09
  let far := if wr then dst else src
  match k.freeTag with
  | none => s
  | some t =>
    let row := rowOf (if wr then src else dst)
    let tr := s.translate far wr e.tstep
    let l : Line := ⟨t, n, x.exec, wr, tr.getD far, row, if wr then x.rows else [], 0, 0, 0, false, cyc, s.scr.now, false, none, 0⟩
    let r := s.sendLine c l tr.isSome
    let last := x.i + 1 == siLines w
    let keep := siKeep w
    let s := r.modCore c fun k =>
      let prev := segOf (rowOf (e.lineDst w (x.i - 1)))
      let k := if wr then k
        else
          let k := if !keep && x.i != 0 && prev != segOf row then k.releaseSegs n (· == prev) else k
          k.holdSeg n cyc (segOf row)
      let k := if !wr && last && !keep then k.releaseSegs n (fun _ => true) else k
      let g := k.engine n
      let g := { g with bucket := g.bucket - 8192, nextAt := cyc + 1,
                        xfer := if last then none else some { x with i := x.i + 1, rows := [], heldSince := none } }
      let g := if last then g.incremented w else g
      let k := k.setEngine n g
      let k : Core := if last && wr then
          { k with lines := k.lines.map fun y =>
              if y.exec == x.exec && y.eng == n then { y with serial := some k.is.serial } else y,
                   is := { k.is with serial := k.is.serial + 1 } }
        else k
      k.settleSegs cyc
    if last then s.seNext c n ((s.core c).engine n) else s

/-- `LINE_REQUEST` (R238): the next request of the engine's transfer, where it may issue. -/
def execLineRequest (c e : Nat) (s : State) : Res :=
  onUnit (decide (c < nCores) && decide (e < 4)) s fun s =>
    let k := s.core c
    let g := k.engine e
    match g.run, g.xfer with
    | 1, some x =>
      (match lineStep k s.fab.coord c e (s.cyc c) g x with
        | .wait => s
        | .hold r => s.setCore c ((k.bump r).setEngine e { g with nextAt := s.cyc c + 1 })
        | .bad row addr => s.seViol c e row 6 addr
        | .poison row => (s.stopEngine c e).poisonFault c 5 6 (64 * row)
        | .go src dst => s.issueLine c e g x src dst)
    | _, _ => s

end Sys2Proof.Machine
end

