-- ==== Sys2Proof/Machine/Waits.lean ====
section
/-!
DEFINITION. Semaphore homes (R259, R260), the parties' answers (R258 to R265) and the wait limits (R263, R264, R281).
-/

namespace Sys2Proof.Machine

/-! ### Homes -/

/-- A home answers an operation: a party of this device, or another device. Updates of this device need no answer. -/
def State.answer (s : State) (m : SemMsg) (ans : Nat) : State :=
  match m.rem with
  | some (y, t) =>
    let s := { s with fab := { s.fab with inb := s.fab.inb - 1 } }
    (s.fabSend (if ans == 2 then 0x24 else 0x23) y t (gaMake s.fab.coord spSync m.off) [] false [b2n (ans == 1)]).1
  | none =>
    if m.kind == 0 then s
    else { s with semAns := s.semAns ++ [⟨(semPlace m.off).getD 0, m.core, m.party, ans⟩] }

/-- Arrived waits enter the wait store; one that finds it full is answered RETRY (R260). -/
def State.parkWaits (s : State) (place : Nat) (ms : List SemMsg) : State :=
  ms.foldl (fun s m =>
    if m.kind == 0 then s
    else
      let p := aget [] s.semPark place
      if p.length ≥ waitStore place then s.answer m 2 else { s with semPark := aput s.semPark place (p ++ [m]) }) s

/-- Up to two arrived updates of each semaphore are applied, oldest first; the others stay (R259). cnt counts the
updates of this cycle by offset. -/
def State.applyUpdates (s : State) (place : Nat) : List SemMsg → AMap Nat → State × AMap Nat
  | [], cnt => (s, cnt)
  | m :: ms, cnt =>
    if m.kind != 0 then s.applyUpdates place ms cnt
    else if aget 0 cnt m.off < 2 then
      ((s.setSem m.off (satSem (s.semVal m.off) m.amount)).answer m 0).applyUpdates place ms
        (aput cnt m.off (aget 0 cnt m.off + 1))
    else ({ s with semLate := aput s.semLate place (aget [] s.semLate place ++ [m]) } : State).applyUpdates place ms cnt

/-- Parked waits, oldest first: a timeout, a release, or they stay (R259). -/
def State.serveWaits (s : State) (place : Nat) : List SemMsg → AMap Nat → State
  | [], _ => s
  | m :: ms, cnt =>
    let v := s.semVal m.off
    if m.deadline < s.scr.now then (s.answer m 1).serveWaits place ms cnt
    else if m.amount ≤ v.toInt then
      if m.kind == 1 then (s.answer m 0).serveWaits place ms cnt
      else if aget 0 cnt m.off < 2 then
        ((s.setSem m.off (satSem v (-m.amount))).answer m 0).serveWaits place ms
          (aput cnt m.off (aget 0 cnt m.off + 1))
      else ({ s with semPark := aput s.semPark place (aget [] s.semPark place ++ [m]) } : State).serveWaits place ms cnt
    else ({ s with semPark := aput s.semPark place (aget [] s.semPark place ++ [m]) } : State).serveWaits place ms cnt

/-- One cycle of a home (R259). -/
def State.homeCycle (s : State) (place : Nat) : State :=
  let ms := aget [] s.semLate place ++ aget [] s.semIn place
  let s := ({ s with semIn := adel s.semIn place, semLate := adel s.semLate place } : State).parkWaits place ms
  let r := s.applyUpdates place ms []
  let ws := aget [] r.1.semPark place
  ({ r.1 with semPark := adel r.1.semPark place } : State).serveWaits place ws r.2

/-- `SEM_HOME_CYCLE` (R259). -/
def execSemHomeCycle (place : Nat) (s : State) : Res := onUnit (decide (place < 1829)) s fun s => s.homeCycle place

/-- `SEM_FENCE_RELEASE` (R262). -/
def execSemFenceRelease (c : Nat) (s : State) : Res := onCore c s fun s => s.drainSync c (s.core c).sync.length

/-! ### Answers at the parties -/

/-- The release reaches its party (R258): a stream engine goes on at once, the others find it when they next look. -/
def State.released (s : State) (c party : Nat) (w : Wait) : State :=
  if party ≥ 3 then
    let g := (s.core c).engine (party - 3)
    s.seNext c (party - 3) { g with wait := none }
  else
    s.modCore c fun k =>
      let k := k.setWait party (some { w with stage := 1 })
      if party == 1 then { k with pnl := { k.pnl with semAt := s.scr.now } } else k

/-- The answer of a home reaches a party: 0 release, 2 RETRY (R260). -/
def State.takeAnswer (s : State) (c party ans : Nat) : State :=
  match (s.core c).waitOf party with
  | none => s
  | some w =>
    if w.stage != 0 then s
    else if ans == 0 then s.released c party w
    else s.modCore c fun k => (k.setWait party (some { w with stage := 2, resendAt := s.scr.now + 64 })).bump rSemRetry

/-- Parties of a core (Table 11-9). -/
def isParty (c party : Nat) : Bool := decide (c < nCores) && decide (party < 7)

/-- The answers that may arrive next: the oldest of each home to each core (R16). -/
def State.nextAns (s : State) (c party : Nat) (timeout : Bool) : Option (SemAns × List SemAns) :=
  takeFirst (fun a : SemAns => a.core == c && a.party == party && (a.ans == 1) == timeout &&
    (s.semAns.find? fun b => b.core == a.core && b.home == a.home) == some a) s.semAns

/-- `SEM_RELEASE` (R258, R260): the next answer of a home other than a timeout reaches its party. -/
def execSemRelease (c party : Nat) (s : State) : Res := onUnit (isParty c party) s fun s =>
  match s.nextAns c party false with
  | some (a, rest) => ({ s with semAns := rest } : State).takeAnswer c party a.ans
  | none => s

/-- `SEM_WAIT_RESEND` (R260): 64 tk after the RETRY the wait leaves again, with its deadline; where the source answers it with
an error, the wait ends with that error (R278, R334). -/
def execSemWaitResend (c party : Nat) (s : State) : Res := onUnit (isParty c party) s fun s =>
  match (s.core c).waitOf party with
  | none => s
  | some w =>
    if w.stage != 2 || decide (s.scr.now < w.resendAt) then s
    else
      let r := s.semSend c party (if w.sub then 2 else 1) w.addr w.count w.deadline 0
      if r.2 then r.1.modCore c fun k => k.setWait party (some { w with stage := 0 })
      else (r.1.modCore c fun k => k.setWait party none).semError c party w.addr

/-! ### Timeouts -/

/-- The party of a semaphore wait abandons it (R264). -/
def State.waitTimeout (s : State) (c party : Nat) (w : Wait) : State :=
  let s := s.modCore c fun k => k.setWait party none
  if party == 0 then s.timeout c 0xB4 5 party w.addr w.deadline []
  else if party == 1 then s.timeout c 0x13 6 party w.addr w.deadline []
  else if party == 2 then s.timeout c 0x89 6 2 w.addr w.deadline [rStnViol]
  else (s.stopEngine c (party - 3)).timeout c 0xA9 6 party w.addr w.deadline [rSeViol]

/-- A hold that began at tick t has lasted the limit. -/
def State.expired (s : State) (t : Option Nat) : Bool :=
  match t with
  | some t => decide (t + s.waitLimit ≤ s.scr.now)
  | none => false

/-- Deadline of a hold. -/
def State.holdEnd (s : State) (t : Option Nat) : Nat := t.getD 0 + s.waitLimit

/-- The bundle at the issue point is held for credit or on an empty queue past the limit: the route word. -/
def State.queueTimeout (s : State) (c : Nat) : Option (State) :=
  let k := s.core c
  let t := afind k.is.holds 4
  if !s.expired t then none
  else
    let x := k.atIssue.ctl
    let w := if x.cop == 0x11 then queueWord x.idx (k.queue x.idx).src s.fab.coord
      else routeWord x.idx (k.rtCfg x.idx) s.fab.coord
    some (s.timeout c 0xB4 5 0 w (s.holdEnd t) [])

/-- A checked read of the bundle pipeline past the limit: the first row that is not LANDED. Bundles of the sequencer
carry stencil reads (Table 08-8). -/
def State.bundleRead (s : State) (c : Nat) : Option (State) :=
  let k := s.core c
  let t := afind k.is.holds 1
  if !s.expired t then none
  else if k.stn.active then some (s.timeout c 0x89 6 7 k.stn.heldAddr (s.holdEnd t) [rStnViol])
  else
    let row := ((checkedRows k k.atIssue).find? fun r => !k.landed r).getD 0
    some (s.timeout c 0x76 6 7 (64 * row) (s.holdEnd t) [rSpViol])

/-- The local-memory engine's read or LSEG past the limit (R163, R168): the operation does not execute. -/
def State.lmExpired (s : State) (c : Nat) : Option State :=
  let k := s.core c
  match k.lm.find? (fun o => o.visAt.isNone) with
  | some o =>
    if !s.expired o.heldSince then none
    else
      let a := if o.lop == 2 then 64 * (o.src + o.rd * o.sstr) else 64 * o.row
      let s := s.modCore c fun k => { k with lm := k.lm.filter fun x => x.serial != o.serial }
      some (s.timeout c 0x76 6 7 a (s.holdEnd o.heldSince) [rSpViol])
  | none => none

/-- A reader of scratchpad rows past the limit: SPLD (R224), STLD and the sequencer's reads (Table 08-8). -/
def State.readerExpired (s : State) (c : Nat) : Option State :=
  let k := s.core c
  match takeFirst (fun r : Reader => s.expired r.heldSince) k.readers with
  | some (r, rest) =>
    let a := 64 * (r.row + r.got.length)
    let s := s.setCore c { k with readers := rest }
    if r.kind == 4 then some ((s.stopEngine c r.eng).timeout c 0xA9 6 7 a (s.holdEnd r.heldSince) [rSeViol])
    else some (s.timeout c 0x89 6 7 a (s.holdEnd r.heldSince) [rStnViol])
  | none => none

/-- A checked read of a stream engine past the limit (R231, R233). -/
def State.engineExpired (s : State) (c : Nat) : Option State :=
  let k := s.core c
  let held (n : Nat) : Option Nat := (k.engine n).xfer.bind fun x => x.heldSince
  match (upto 4).find? fun n => s.expired (held n) with
  | some n =>
    let row := (k.seRow s.fab.coord c n).getD 0
    some ((s.stopEngine c n).timeout c 0xA9 6 7 (64 * row) (s.holdEnd (held n)) [rSeViol])
  | none => none

/-- A body read of MB.SEND past the limit (R275). -/
def State.recordExpired (s : State) (c : Nat) : Option State :=
  let k := s.core c
  match takeFirst (fun m : MbOut => s.expired m.heldSince) k.mbOut with
  | some (m, rest) =>
    some ((s.setCore c { k with mbOut := rest }).timeout c 0x76 6 7 (64 * (m.row + m.got.length))
      (s.holdEnd m.heldSince) [rSpViol])
  | none => none

/-- The first of the checked reads, LSEGs and SPLD reads of the core that has passed its limit. -/
def State.readTimeout (s : State) (c : Nat) : State :=
  ((s.bundleRead c).or ((s.lmExpired c).or ((s.readerExpired c).or ((s.engineExpired c).or (s.recordExpired c))))).getD s

/-- `WAIT_LIMIT_EXPIRY` (R264): the home's TIMEOUT reaches its party, a queue or mailbox hold passes the limit (party
0), or a checked read does (party 7). -/
def execWaitLimitExpiry (c party : Nat) (s : State) : Res :=
  onUnit (decide (c < nCores) && decide (party < 8)) s fun s =>
    if party == 7 then s.readTimeout c
    else match s.nextAns c party true, (s.core c).waitOf party with
      | some (_, rest), some w => ({ s with semAns := rest } : State).waitTimeout c party w
      | some (_, rest), none => { s with semAns := rest }
      | none, _ => if party == 0 then (s.queueTimeout c).getD s else s

/-- `REMOTE_WAIT_EXPIRY` (R265): no answer by the deadline plus 100,000 tk. -/
def execRemoteWaitExpiry (c party : Nat) (s : State) : Res := onUnit (isParty c party) s fun s =>
  match (s.core c).waitOf party with
  | none => s
  | some w =>
    if gaCoord w.addr == s.fab.coord || w.stage == 1 || decide (s.scr.now < w.deadline + 100000) then s
    else
      let drop (r : FabReq) : Bool := r.kind == 1 && r.core == c && r.x == party
      ({ s with fab := { s.fab with reqs := s.fab.reqs.filter fun r => !drop r } } : State).waitTimeout c party w

/-- The slot whose hold under BANK (2) or FTQ (3) has lasted the limit (R281). -/
def State.bankExpired (s : State) (k : Core) : Option Nat := [2, 3].find? fun q => s.expired (afind k.is.holds q)

/-- `BANK_HOLD_TIMEOUT` (R281): a bundle of bundle memory held under BANK or FTQ, or a stencil front held under R187,
for the limit. -/
def execBankHoldTimeout (c : Nat) (s : State) : Res := onCore c s fun s =>
  let k := s.core c
  match k.stn.active, k.stn.front with
  | true, some f =>
    if k.is.stopped || !s.expired f.heldSince then s
    else s.timeout c 0xB4 6 2 f.p (s.holdEnd f.heldSince) []
  | true, none => s
  | false, _ =>
    match s.bankExpired k with
    | some q => s.timeout c 0xB4 q 0 k.bundleIndex (s.holdEnd (afind k.is.holds q)) []
    | none => s

end Sys2Proof.Machine
end

