-- ==== Sys2Proof/Machine/Fabric.lean ====
section
/-!
DEFINITION. Transactions that arrive on the fabric ports (R333 to R338, R345, R348, R350): transit, the checks of PID and
EPOCH, inbound requests, responses to this device's requests, and the job fault broadcast.
-/

namespace Sys2Proof.Machine

/-- Numbers of the error responses (Table 14-4). -/
def errBounds : Nat := 1
def errSpace : Nat := 2
def errStale : Nat := 3
def errUnreach : Nat := 4
def errUnsup : Nat := 5

/-- Fabric counters of the device (Table 14-9). -/
def rStale : Nat := 0x200018
def rUnreach : Nat := 0x20001C
def rUnsup : Nat := 0x200020
def rForeign : Nat := 0x200024
def rFaultRx : Nat := 0x20002C

/-- Requests: transactions that are answered (Table 14-4). -/
def Inbound.isRequest (t : Inbound) : Bool := 1 ≤ t.op && t.op ≤ 4

/-- The header names a port and coordinates that exist. -/
def headerOk (h : FabHeader) : Bool := decide (h.port < nPorts) && decide (h.src < 4096) && decide (h.dst < 4096)

/-- An error response goes to the requester. -/
def State.fabErr (s : State) (h : FabHeader) (code : Nat) : State := (s.fabSend 0x25 h.src h.tag h.addr [] false [code]).1

/-- A transaction for another device passes on by the rule of R333. -/
def State.forward (s : State) (t : Inbound) : State :=
  match nextPort s.foldUsable s.fab.dims s.fab.coord t.h.dst with
  | none => s
  | some p =>
    let refuse (cnt code : Nat) : State := if t.isRequest then (s.bumpD cnt).fabErr t.h code else s.bumpD cnt
    if !(s.port p).usable then refuse rUnreach errUnreach
    else if !carries (s.port p).gen t.op t.h.dst (t.x.getD 0 0) then refuse rUnsup errUnsup
    else s.portOut p (1 + t.h.port) (32 + t.data.length) (.transit p t.op t.h t.data t.poison t.x)

/-- The checks of R345: the transaction is meant for this device and its job. -/
def State.accept (s : State) (t : Inbound) (f : State → State) : State :=
  let h := t.h
  if h.pid != s.pid then
    (s.bumpD rForeign).emit evFabForeign none none [h.src + h.pid <<< 12]
  else if h.epoch != s.epochNo then
    if t.isRequest then (s.bumpD rStale).fabErr h errStale else s.bumpD rStale
  else f s

/-- Payload bytes have arrived on port p. -/
def State.received (s : State) (p n : Nat) : State :=
  (s.setPort p { s.port p with rxBytes := (s.port p).rxBytes + n }).addD64 (rPortRx p) n

/-- A transaction that is no request arrives on an ACTIVE port: it passes through, is turned away, or acts. -/
def State.inbound (s : State) (t : Inbound) (f : State → State) : State :=
  if (s.port t.h.port).st != psActive then s
  else
    let s := s.received t.h.port (32 + t.data.length)
    if t.h.dst != s.fab.coord then s.forward t else s.accept t f

def State.refuseReq (s : State) (h : FabHeader) (code : Nat) : State := s.respond h.src h.tag h.addr 0x25 [] false [code]

/-- The code with which a line request is refused (R290). -/
def State.lineRefusal (s : State) (a : Nat) : Option Nat :=
  if gaSpace a > spSp then some errSpace else if !s.memOk a 512 then some errBounds else none

/-- A line request of another device reaches its controller or scratchpad (R336, R337): an HBM line comes from its merge
entry (R248); a write is acknowledged when every later read returns the line (R246). -/
def State.farLine (s : State) (t : Inbound) (write : Option (List Byte × Bool)) : State :=
  match s.lineRefusal t.h.addr with
  | some code => s.refuseReq t.h code
  | none => s.atController ⟨(farSender t.h.src, t.h.tag), t.h.addr, write, t.ecc⟩

/-- A semaphore operation of another device joins those at its home; its amount is unsigned (R257). -/
def State.farSem (s : State) (h : FabHeader) (kind amount deadline : Nat) : State :=
  if gaSpace h.addr != spSync then s.refuseReq h errSpace
  else match semPlace (gaOff h.addr) with
    | none => s.refuseReq h errBounds
    | some place =>
      let n : Int := (amount % 2 ^ 32 : Nat)
      s.toHome place ⟨0, 8, some (h.src, h.tag), gaOff h.addr, if kind == 3 then 0 else kind,
        if kind == 3 then -n else n, deadline, noSerial⟩

/-- A record's bytes, each with the mark of its 16-byte unit. -/
def markUnits (rec : List Byte) (poison : List Bool) : List (Byte × Bool) :=
  rec.zipIdx.map fun x => (x.1, poison.getD (x.2 / 16) false)

/-- A mailbox record of another device (R276): a record for a closed mailbox is discarded and acknowledged (R271). -/
def State.farRecord (s : State) (t : Inbound) : State :=
  let o := gaOff t.h.addr
  let c := o >>> 20
  let m := bits o 19 16
  if gaSpace t.h.addr != spSp then s.refuseReq t.h errSpace
  else if nCores ≤ c || 4 ≤ m then s.refuseReq t.h errBounds
  else
    let s := s.recordArrives (farSender t.h.src) c m (recordRows (o % 2 ^ 16) (markUnits t.data t.poison)
      (.record m t.data.length none (some (t.h.src, t.h.tag, t.h.addr))))
    if ((s.core c).mbx m).closed then s.respond t.h.src t.h.tag t.h.addr 0x26 [] false [] else s

/-- Core and route that MBX_CREDIT and CLOSE name (log entry 15), where they exist. -/
def routeOf (addr : Nat) : Option (Nat × Nat) :=
  let o := gaOff addr
  if gaSpace addr == spSp && decide (o >>> 20 < nCores) && decide (o % 2 ^ 20 < 8) then some (o >>> 20, o % 2 ^ 20)
  else none

/-- A transaction of the REQ channel acts on this device. A request occupies one of 16,384 places until it is answered
(R338). -/
def State.actReq (s : State) (t : Inbound) : State :=
  if t.op == 0x05 then
    match routeOf t.h.addr with
    | some (c, r) => s.modCore c fun k => k.addBytes r (t.x.headD 0)
    | none => s
  else
    let s := { s with fab := { s.fab with inb := s.fab.inb + 1, inbPeak := max s.fab.inbPeak (s.fab.inb + 1) } }
    if t.op == 0x01 then s.farLine t none
    else if t.op == 0x02 then s.farLine t (some (t.data, t.poison.headD false))
    else if t.op == 0x03 then s.farSem t.h (t.x.getD 0 0) (t.x.getD 1 0) (t.x.getD 2 0)
    else s.farRecord t

/-- A transaction of the REQ channel reaches the hub's switch: it passes on, is turned away, or acts. -/
def State.takeReq (s : State) (t : Inbound) : State :=
  if t.h.dst != s.fab.coord then s.forward t else s.accept t fun s => s.actReq t

/-- The request needs one of the 16,384 places, and none is free (R338). -/
def State.noPlace (s : State) (t : Inbound) : Bool :=
  t.isRequest && t.h.dst == s.fab.coord && t.h.pid == s.pid && t.h.epoch == s.epochNo && decide (16384 ≤ s.fab.inb)

/-- A transaction of the REQ channel arrives on an ACTIVE port. Behind one that finds no place it waits in the port's REQ
buffer; where that is full, its sender has no credit, and it does not come (R335, R338). -/
def State.arriveReq (s : State) (t : Inbound) : State :=
  let x := s.port t.h.port
  if x.st != psActive then s
  else if x.reqBuf.isEmpty && !s.noPlace t then (s.received t.h.port (32 + t.data.length)).takeReq t
  else if Config.reqBuffer ≤ x.reqBuf.length then s
  else (s.setPort t.h.port { x with reqBuf := x.reqBuf ++ [t] }).received t.h.port (32 + t.data.length)

/-- The REQ buffer of port p gives up what finds a place, oldest first. -/
def State.drainReq (p : Nat) : Nat → State → State
  | 0, s => s
  | n + 1, s =>
    match (s.port p).reqBuf with
    | [] => s
    | t :: rest =>
      if s.noPlace t then s
      else State.drainReq p n ((s.setPort p { s.port p with reqBuf := rest }).takeReq t)

/-- Every port's REQ buffer, lowest port first (DESIGN CHOICE, log entry 19). -/
def State.drainReqs (s : State) : State :=
  (upto nPorts).foldl (fun s p => State.drainReq p (s.port p).reqBuf.length s) s

/-- `RD_LINE` (R337). -/
def execRdLine (h : FabHeader) (ecc : EccFind) (s : State) : Res := onUnit (headerOk h) s fun s =>
  s.arriveReq { op := 0x01, h, ecc }

/-- `WR_LINE` (R337). -/
def execWrLine (h : FabHeader) (line : List Byte) (poison : Bool) (s : State) : Res := onUnit (headerOk h) s fun s =>
  s.arriveReq { op := 0x02, h, data := line, poison := [poison] }

/-- `SEM_OP` (R337): kind 0 SEM.ADD, 1 SEM.WAIT, 2 SEM.WSUB, 3 SEM.SUB. -/
def execSemOp (h : FabHeader) (kind amount deadline : Nat) (s : State) : Res :=
  onUnit (headerOk h && decide (kind < 4)) s fun s =>
  s.arriveReq { op := 0x03, h, x := [kind, amount, deadline] }

/-- `MBX_REC` (R337). -/
def execMbxRec (h : FabHeader) (rec : List Byte) (poison : List Bool) (s : State) : Res := onUnit (headerOk h) s fun s =>
  s.arriveReq { op := 0x04, h, data := rec, poison }

/-- `MBX_CREDIT` (R337, R277). -/
def execMbxCredit (h : FabHeader) (bytes : Nat) (s : State) : Res := onUnit (headerOk h) s fun s =>
  s.arriveReq { op := 0x05, h, x := [bytes] }

/-- `CLOSE` (R337, R272). -/
def execClose (h : FabHeader) (s : State) : Res := onUnit (headerOk h) s fun s =>
  s.inbound { op := 0x06, h } fun s =>
    match routeOf h.addr with
    | some (c, r) => s.modCore c fun k => k.sever r
    | none => s

/-! ### Responses -/

/-- A response takes the waiting request with its tag among those of kinds that it can answer (R338). -/
def State.answered (s : State) (h : FabHeader) (kinds : List Nat) (f : State → FabReq → State) : State :=
  match takeFirst (fun r : FabReq => r.tag == h.tag && kinds.contains r.kind) s.fab.reqs with
  | some (r, rest) => f { s with fab := { s.fab with reqs := rest } } r
  | none => s

/-- `RD_DATA` (R337, R242): the line has returned. -/
def execRdData (h : FabHeader) (line : List Byte) (poison : Bool) (s : State) : Res := onUnit (headerOk h) s fun s =>
  s.inbound { op := 0x21, h, data := line, poison := [poison] } fun s => s.answered h [0] fun s r =>
    s.modCore r.core fun k => k.lineBack r.x (s.cyc r.core) fun l => { l with data := rowsOfLine line poison, stage := 2 }

/-- `WR_ACK` (R337, R246). -/
def execWrAck (h : FabHeader) (s : State) : Res := onUnit (headerOk h) s fun s =>
  s.inbound { op := 0x22, h } fun s => s.answered h [0] fun s r =>
    s.modCore r.core fun k => match k.lineOf r.x with
      | some l => k.setLine r.x { l with stage := 2 }
      | none => k

/-- `SEM_DONE` (R337): an update is applied, or a wait has its answer, which its party finds (R258, R264). -/
def execSemDone (h : FabHeader) (timeout : Bool) (s : State) : Res := onUnit (headerOk h) s fun s =>
  s.inbound { op := 0x23, h, x := [b2n timeout] } fun s => s.answered h [1, 2] fun s r =>
    if r.kind == 2 then s else { s with semAns := s.semAns ++ [⟨farSender h.src, r.core, r.x, b2n timeout⟩] }

/-- `RETRY` (R260): the party sends its wait again 64 tk later. -/
def execRetry (h : FabHeader) (s : State) : Res := onUnit (headerOk h) s fun s =>
  s.inbound { op := 0x24, h } fun s => s.answered h [1] fun s r => s.takeAnswer r.core r.x 2

/-- An error response reaches its requester (R352): a line request waits for LINE_ERROR_RESPONSE; a semaphore operation
and a record are violations of Table 11-12. -/
def State.errorArrives (s : State) (h : FabHeader) (r : FabReq) : State :=
  if r.kind == 0 then
    s.modCore r.core fun k => match k.lineOf r.x with
      | some l => k.setLine r.x { l with bad := true }
      | none => k
  else if r.kind == 1 then (s.modCore r.core fun k => k.setWait r.x none).semError r.core r.party h.addr
  else if r.kind == 2 then s.semError r.core r.party h.addr
  else s.violate r.core 0xB3 6 h.addr rQViol

/-- `ERR` (R337, R352). -/
def execErr (h : FabHeader) (code : Nat) (s : State) : Res := onUnit (headerOk h) s fun s =>
  s.inbound { op := 0x25, h, x := [code] } fun s => s.answered h [0, 1, 2, 3] fun s r => s.errorArrives h r

/-- `MBX_ACK` (R337): the record has landed and is posted. -/
def execMbxAck (h : FabHeader) (s : State) : Res := onUnit (headerOk h) s fun s =>
  s.inbound { op := 0x26, h } fun s => s.answered h [3] fun s _ => s

/-! ### The job fault broadcast (R348) -/

/-- The job fault of another device halts every core; a device that is not RUNNING has none to halt (R372). -/
def State.faultFrom (s : State) (src serial reason : Nat) : State :=
  if s.ctl.st == stRunning && s.ctl.fault.isNone then
    ({ s with ctl := { s.ctl with fault := some ⟨reason, src, 0, 0, s.scr.ns, none⟩, halt := true } } : State).emit evJobFault none none
      ([reason + src <<< 4 + serial <<< 16, 0] ++ lohi 0)
  else s

/-- `JOB_FAULT` (R348): the first receipt is forwarded and raises the halt; later copies are dropped. -/
def execJobFault (h : FabHeader) (serial reason tick : Nat) (s : State) : Res := onUnit (headerOk h) s fun s =>
  let key := (h.src, serial % 65536, h.epoch)
  if (s.port h.port).st != psActive then s
  else
    (s.received h.port 32).accept { op := 0x41, h } fun s =>
      if s.fab.seen.contains key then s
      else
        let s := ({ s with fab := { s.fab with seen := key :: s.fab.seen } } : State).bumpD rFaultRx
        let s := s.floodFault (s.partPorts.filter (· != h.port)) h.src (serial % 65536) reason tick
        s.faultFrom h.src (serial % 65536) reason

/-- Opcodes that Table 14-4 gives a meaning. -/
def knownOps : List Nat := [0x01, 0x02, 0x03, 0x04, 0x05, 0x06, 0x21, 0x22, 0x23, 0x24, 0x25, 0x26, 0x40, 0x41]

/-- `UNSUPPORTED_TRANSACTION` (R337): a reserved opcode. -/
def execUnsupportedTransaction (h : FabHeader) (op : Nat) (s : State) : Res := onUnit (headerOk h) s fun s =>
  if (s.port h.port).st != psActive || knownOps.contains op then s
  else (s.received h.port 32).bumpD rUnsup

end Sys2Proof.Machine
end

