-- ==== Sys2Proof/Machine/LocalMem.lean ====
section
/-!
DEFINITION. Operations of the local-memory slot (R164 to R168).
-/

namespace Sys2Proof.Machine

/-- `LFILL` (R166): a fill enters the queue. -/
def execLfill (c : Nat) (s : State) : Res := issueLms c 0x01 s

/-- `LCOPY` (R167): a copy enters the queue. -/
def execLcopy (c : Nat) (s : State) : Res := issueLms c 0x02 s

/-- `LSEG` (R168): a change of segment states enters the queue. -/
def execLseg (c : Nat) (s : State) : Res := issueLms c 0x03 s

end Sys2Proof.Machine
end

