-- ==== Sys2Proof/Machine/Matrix.lean ====
section
/-!
DEFINITION. Matrix operations that a bundle issues (R80 to R95).
-/

namespace Sys2Proof.Machine

/-- `MMA` (R82; Table 04-3): a rank-k product in each enabled array. -/
def execMma (c : Nat) (s : State) : Res := issueMat c 0x01 s

/-- `MRET` (R92): retirement without a product. -/
def execMret (c : Nat) (s : State) : Res := issueMat c 0x02 s

/-- `MDROP` (R80): the bank becomes IDLE. -/
def execMdrop (c : Nat) (s : State) : Res := issueMat c 0x03 s

/-- `WLD` (R84): weight columns loaded from rows. -/
def execWld (c : Nat) (s : State) : Res := issueMat c 0x04 s

end Sys2Proof.Machine
end

