-- ==== Sys2Proof/Machine/PanelRows.lean ====
section
/-! DEFINITION. Panel events (R29 to R31). -/

namespace Sys2Proof.Machine

/-- `PANEL_END` (R30): the bundle at the issue point carries MARK. -/
def execPanelEnd (c : Nat) (s : State) : Res := onCore c s fun s => s.issue c fun b => b.mark

/-- `PANEL_START` (R29). -/
def execPanelStart (c : Nat) (s : State) : Res := onCore c s fun s =>
  if s.ctl.st == stRunning && s.panelReady c then s.panelStart c else s

/-- `PANEL_POST` (R31). -/
def execPanelPost (c : Nat) (s : State) : Res := onCore c s fun s => s.panelPost c

end Sys2Proof.Machine
end

