-- ==== Sys2Proof/Machine/Retire.lean ====
section
/-!
DEFINITION. Retirement of banks into the finished-tile queue (R92, R93): its two events.
-/

namespace Sys2Proof.Machine

/-- Bank number r (array r div 2, bank r mod 2). -/
def Core.bankNo (k : Core) (r : Nat) : Bank := k.bank (r / 2) (r % 2)

/-- The oldest waiting retirement starts moving once its last product is visible and the queue is free (R93). -/
def Core.retireMove (k : Core) : Core :=
  match k.mx.retq, k.mx.moving with
  | r :: rest, none =>
    if (k.bankNo r.bank).vis ≤ k.is.clk && k.mx.freeAt ≤ k.is.clk then
      let ftq := aput k.mx.ftq r.entry { aget FtqEntry.init k.mx.ftq r.entry with st := 2 }
      { k with mx := { k.mx with retq := rest, moving := some (r, k.is.clk + 16), ftq } }
    else k
  | _, _ => k

/-- The last element has moved: the bank is IDLE and the entry READY (R93); poison and type go with the tile (R91). -/
def Core.tileReady (k : Core) : Core :=
  match k.mx.moving with
  | none => k
  | some (r, t) =>
    if k.is.clk < t then k
    else
      let b := k.bankNo r.bank
      let e : FtqEntry := { st := 3, int := b.int, poison := b.poison, group := 0, data := b.acc }
      let k := k.setBank (r.bank / 2) (r.bank % 2) b.idle
      { k with mx := { k.mx with moving := none, freeAt := t, ftq := aput k.mx.ftq r.entry e } }

/-- `RETIREMENT_MOVE` (R93). -/
def execRetirementMove (c : Nat) (s : State) : Res := onCore c s fun s => s.modCore c Core.retireMove

/-- `TILE_READY` (R93). -/
def execTileReady (c : Nat) (s : State) : Res := onCore c s fun s => s.modCore c Core.tileReady

end Sys2Proof.Machine
end

