-- ==== Sys2Proof/Machine/Scalar.lean ====
section
/-!
DEFINITION. Scalar operations (R54 to R59). Each row names a core; the bundle at the issue point, which carries the
operation, is attempted whole (R47).
-/

namespace Sys2Proof.Machine

/-- `NOP` (R48): the bundle at the issue point holds NOP, or an unlisted value, in some slot; the slot does nothing. -/
def execNop (c : Nat) (s : State) : Res := onCore c s fun s => s.issue c fun b => someNop b || unlisted b

/-- `ADD` (R55; Table 03-6, value 0x01): the bundle at the issue point carries it. -/
def execAdd (c : Nat) (s : State) : Res := issueScl c 0x01 s

/-- `SUB` (R55; Table 03-6, value 0x02): the bundle at the issue point carries it. -/
def execSub (c : Nat) (s : State) : Res := issueScl c 0x02 s

/-- `MUL` (R55; Table 03-6, value 0x03): the bundle at the issue point carries it. -/
def execMul (c : Nat) (s : State) : Res := issueScl c 0x03 s

/-- `AND` (R55; Table 03-6, value 0x04): the bundle at the issue point carries it. -/
def execAnd (c : Nat) (s : State) : Res := issueScl c 0x04 s

/-- `OR` (R55; Table 03-6, value 0x05): the bundle at the issue point carries it. -/
def execOr (c : Nat) (s : State) : Res := issueScl c 0x05 s

/-- `XOR` (R55; Table 03-6, value 0x06): the bundle at the issue point carries it. -/
def execXor (c : Nat) (s : State) : Res := issueScl c 0x06 s

/-- `SHL` (R55; Table 03-6, value 0x07): the bundle at the issue point carries it. -/
def execShl (c : Nat) (s : State) : Res := issueScl c 0x07 s

/-- `SHR` (R55; Table 03-6, value 0x08): the bundle at the issue point carries it. -/
def execShr (c : Nat) (s : State) : Res := issueScl c 0x08 s

/-- `SRA` (R55; Table 03-6, value 0x09): the bundle at the issue point carries it. -/
def execSra (c : Nat) (s : State) : Res := issueScl c 0x09 s

/-- `MIN` (R55; Table 03-6, value 0x0A): the bundle at the issue point carries it. -/
def execMin (c : Nat) (s : State) : Res := issueScl c 0x0A s

/-- `MAX` (R55; Table 03-6, value 0x0B): the bundle at the issue point carries it. -/
def execMax (c : Nat) (s : State) : Res := issueScl c 0x0B s

/-- `SLT` (R55; Table 03-6, value 0x0C): the bundle at the issue point carries it. -/
def execSlt (c : Nat) (s : State) : Res := issueScl c 0x0C s

/-- `SLTU` (R55; Table 03-6, value 0x0D): the bundle at the issue point carries it. -/
def execSltu (c : Nat) (s : State) : Res := issueScl c 0x0D s

/-- `ADDI` (R55; Table 03-6, value 0x10): the bundle at the issue point carries it. -/
def execAddi (c : Nat) (s : State) : Res := issueScl c 0x10 s

/-- `ANDI` (R55; Table 03-6, value 0x11): the bundle at the issue point carries it. -/
def execAndi (c : Nat) (s : State) : Res := issueScl c 0x11 s

/-- `ORI` (R55; Table 03-6, value 0x12): the bundle at the issue point carries it. -/
def execOri (c : Nat) (s : State) : Res := issueScl c 0x12 s

/-- `SHLI` (R55; Table 03-6, value 0x13): the bundle at the issue point carries it. -/
def execShli (c : Nat) (s : State) : Res := issueScl c 0x13 s

/-- `SHRI` (R55; Table 03-6, value 0x14): the bundle at the issue point carries it. -/
def execShri (c : Nat) (s : State) : Res := issueScl c 0x14 s

/-- `LUI` (R55; Table 03-6, value 0x15): the bundle at the issue point carries it. -/
def execLui (c : Nat) (s : State) : Res := issueScl c 0x15 s

/-- `SLD` (R56, R160; Table 03-6, value 0x18): the bundle at the issue point carries it. -/
def execSld (c : Nat) (s : State) : Res := issueScl c 0x18 s

/-- `SST` (R56, R157; Table 03-6, value 0x19): the bundle at the issue point carries it. -/
def execSst (c : Nat) (s : State) : Res := issueScl c 0x19 s

/-- `BEQ` (R58; Table 03-6, value 0x20): the bundle at the issue point carries it. -/
def execBeq (c : Nat) (s : State) : Res := issueScl c 0x20 s

/-- `BNE` (R58; Table 03-6, value 0x21): the bundle at the issue point carries it. -/
def execBne (c : Nat) (s : State) : Res := issueScl c 0x21 s

/-- `BLT` (R58; Table 03-6, value 0x22): the bundle at the issue point carries it. -/
def execBlt (c : Nat) (s : State) : Res := issueScl c 0x22 s

/-- `BGE` (R58; Table 03-6, value 0x23): the bundle at the issue point carries it. -/
def execBge (c : Nat) (s : State) : Res := issueScl c 0x23 s

/-- `BLTU` (R58; Table 03-6, value 0x24): the bundle at the issue point carries it. -/
def execBltu (c : Nat) (s : State) : Res := issueScl c 0x24 s

/-- `JMP` (R58; Table 03-6, value 0x25): the bundle at the issue point carries it. -/
def execJmp (c : Nat) (s : State) : Res := issueScl c 0x25 s

/-- `JAL` (R58; Table 03-6, value 0x26): the bundle at the issue point carries it. -/
def execJal (c : Nat) (s : State) : Res := issueScl c 0x26 s

/-- `JR` (R58; Table 03-6, value 0x27): the bundle at the issue point carries it. -/
def execJr (c : Nat) (s : State) : Res := issueScl c 0x27 s

/-- `LSET` (R55; Table 03-6, value 0x28): the bundle at the issue point carries it. -/
def execLset (c : Nat) (s : State) : Res := issueScl c 0x28 s

/-- `LEND` (R58; Table 03-6, value 0x29): the bundle at the issue point carries it. -/
def execLend (c : Nat) (s : State) : Res := issueScl c 0x29 s

/-- `RDSYS` (R57; Table 03-6, value 0x30): the bundle at the issue point carries it. -/
def execRdsys (c : Nat) (s : State) : Res := issueScl c 0x30 s

end Sys2Proof.Machine
end

