-- ==== Sys2Proof/Machine/VecMem.lean ====
section
/-!
DEFINITION. Vector loads, stores and block scales (R144 to R147).
-/

namespace Sys2Proof.Machine

/-- `VLD` (R145; Table 06-2, value 0x48). -/
def execVld (c : Nat) (s : State) : Res := issueVec c 0x48 s

/-- `VLDSC` (R145; Table 06-2, value 0x49). -/
def execVldsc (c : Nat) (s : State) : Res := issueVec c 0x49 s

/-- `VST` (R146, R147; Table 06-2, value 0x4A). -/
def execVst (c : Nat) (s : State) : Res := issueVec c 0x4A s

/-- `VSTQ` (R146, R147; Table 06-2, value 0x4B). -/
def execVstq (c : Nat) (s : State) : Res := issueVec c 0x4B s

/-- `VSTSC` (R146, R147; Table 06-2, value 0x4C). -/
def execVstsc (c : Nat) (s : State) : Res := issueVec c 0x4C s

/-- `VMXSC` (R147; Table 06-2, value 0x4D). -/
def execVmxsc (c : Nat) (s : State) : Res := issueVec c 0x4D s

end Sys2Proof.Machine
end

