-- ==== Sys2Proof/Machine/Vector.lean ====
section
/-!
DEFINITION. Vector operations on registers (R134 to R152).
-/

namespace Sys2Proof.Machine

/-- `VADD` (R139; Table 06-2, value 0x01). -/
def execVadd (c : Nat) (s : State) : Res := issueVec c 0x01 s

/-- `VSUB` (R139; Table 06-2, value 0x02). -/
def execVsub (c : Nat) (s : State) : Res := issueVec c 0x02 s

/-- `VMUL` (R139; Table 06-2, value 0x03). -/
def execVmul (c : Nat) (s : State) : Res := issueVec c 0x03 s

/-- `VFMA` (R139; Table 06-2, value 0x04). -/
def execVfma (c : Nat) (s : State) : Res := issueVec c 0x04 s

/-- `VFNMA` (R139; Table 06-2, value 0x05). -/
def execVfnma (c : Nat) (s : State) : Res := issueVec c 0x05 s

/-- `VMIN` (R139; Table 06-2, value 0x06). -/
def execVmin (c : Nat) (s : State) : Res := issueVec c 0x06 s

/-- `VMAX` (R139; Table 06-2, value 0x07). -/
def execVmax (c : Nat) (s : State) : Res := issueVec c 0x07 s

/-- `VABS` (R139; Table 06-2, value 0x08). -/
def execVabs (c : Nat) (s : State) : Res := issueVec c 0x08 s

/-- `VNEG` (R139; Table 06-2, value 0x09). -/
def execVneg (c : Nat) (s : State) : Res := issueVec c 0x09 s

/-- `VAMAX` (R139; Table 06-2, value 0x0A). -/
def execVamax (c : Nat) (s : State) : Res := issueVec c 0x0A s

/-- `VCVTIF` (R139; Table 06-2, value 0x0B). -/
def execVcvtif (c : Nat) (s : State) : Res := issueVec c 0x0B s

/-- `VCVTFI` (R139; Table 06-2, value 0x0C). -/
def execVcvtfi (c : Nat) (s : State) : Res := issueVec c 0x0C s

/-- `VSPLIT` (R139; Table 06-2, value 0x0D). -/
def execVsplit (c : Nat) (s : State) : Res := issueVec c 0x0D s

/-- `VSEL` (R139; Table 06-2, value 0x0E). -/
def execVsel (c : Nat) (s : State) : Res := issueVec c 0x0E s

/-- `VMOV` (R139; Table 06-2, value 0x0F). -/
def execVmov (c : Nat) (s : State) : Res := issueVec c 0x0F s

/-- `VCLT` (R139; Table 06-2, value 0x10). -/
def execVclt (c : Nat) (s : State) : Res := issueVec c 0x10 s

/-- `VCLE` (R139; Table 06-2, value 0x11). -/
def execVcle (c : Nat) (s : State) : Res := issueVec c 0x11 s

/-- `VCEQ` (R139; Table 06-2, value 0x12). -/
def execVceq (c : Nat) (s : State) : Res := issueVec c 0x12 s

/-- `VIADD` (R139; Table 06-2, value 0x18). -/
def execViadd (c : Nat) (s : State) : Res := issueVec c 0x18 s

/-- `VISUB` (R139; Table 06-2, value 0x19). -/
def execVisub (c : Nat) (s : State) : Res := issueVec c 0x19 s

/-- `VIMUL` (R139; Table 06-2, value 0x1A). -/
def execVimul (c : Nat) (s : State) : Res := issueVec c 0x1A s

/-- `VAND` (R139; Table 06-2, value 0x1B). -/
def execVand (c : Nat) (s : State) : Res := issueVec c 0x1B s

/-- `VOR` (R139; Table 06-2, value 0x1C). -/
def execVor (c : Nat) (s : State) : Res := issueVec c 0x1C s

/-- `VXOR` (R139; Table 06-2, value 0x1D). -/
def execVxor (c : Nat) (s : State) : Res := issueVec c 0x1D s

/-- `VSHL` (R139; Table 06-2, value 0x1E). -/
def execVshl (c : Nat) (s : State) : Res := issueVec c 0x1E s

/-- `VSHR` (R139; Table 06-2, value 0x1F). -/
def execVshr (c : Nat) (s : State) : Res := issueVec c 0x1F s

/-- `VSRA` (R139; Table 06-2, value 0x20). -/
def execVsra (c : Nat) (s : State) : Res := issueVec c 0x20 s

/-- `VIMIN` (R139; Table 06-2, value 0x21). -/
def execVimin (c : Nat) (s : State) : Res := issueVec c 0x21 s

/-- `VIMAX` (R139; Table 06-2, value 0x22). -/
def execVimax (c : Nat) (s : State) : Res := issueVec c 0x22 s

/-- `VICLT` (R139; Table 06-2, value 0x23). -/
def execViclt (c : Nat) (s : State) : Res := issueVec c 0x23 s

/-- `VMAND` (R139; Table 06-2, value 0x28). -/
def execVmand (c : Nat) (s : State) : Res := issueVec c 0x28 s

/-- `VMOR` (R139; Table 06-2, value 0x29). -/
def execVmor (c : Nat) (s : State) : Res := issueVec c 0x29 s

/-- `VMXOR` (R139; Table 06-2, value 0x2A). -/
def execVmxor (c : Nat) (s : State) : Res := issueVec c 0x2A s

/-- `VMNOT` (R139; Table 06-2, value 0x2B). -/
def execVmnot (c : Nat) (s : State) : Res := issueVec c 0x2B s

/-- `VMLD` (R139; Table 06-2, value 0x2C). -/
def execVmld (c : Nat) (s : State) : Res := issueVec c 0x2C s

/-- `VEXP2` (R139; Table 06-2, value 0x30). -/
def execVexp2 (c : Nat) (s : State) : Res := issueVec c 0x30 s

/-- `VLOG2` (R139; Table 06-2, value 0x31). -/
def execVlog2 (c : Nat) (s : State) : Res := issueVec c 0x31 s

/-- `VRSQRT` (R139; Table 06-2, value 0x32). -/
def execVrsqrt (c : Nat) (s : State) : Res := issueVec c 0x32 s

/-- `VRECIP` (R139; Table 06-2, value 0x33). -/
def execVrecip (c : Nat) (s : State) : Res := issueVec c 0x33 s

/-- `VRAND` (R139; Table 06-2, value 0x38). -/
def execVrand (c : Nat) (s : State) : Res := issueVec c 0x38 s

/-- `VDROP` (R139; Table 06-2, value 0x39). -/
def execVdrop (c : Nat) (s : State) : Res := issueVec c 0x39 s

/-- `VRSUM` (R139; Table 06-2, value 0x40). -/
def execVrsum (c : Nat) (s : State) : Res := issueVec c 0x40 s

/-- `VRMAX` (R139; Table 06-2, value 0x41). -/
def execVrmax (c : Nat) (s : State) : Res := issueVec c 0x41 s

/-- `VRMIN` (R139; Table 06-2, value 0x42). -/
def execVrmin (c : Nat) (s : State) : Res := issueVec c 0x42 s

/-- `VRISUM` (R139; Table 06-2, value 0x43). -/
def execVrisum (c : Nat) (s : State) : Res := issueVec c 0x43 s

/-- `VMCNT` (R139; Table 06-2, value 0x44). -/
def execVmcnt (c : Nat) (s : State) : Res := issueVec c 0x44 s

/-- `VFTQDROP` (R139; Table 06-2, value 0x50). -/
def execVftqdrop (c : Nat) (s : State) : Res := issueVec c 0x50 s

end Sys2Proof.Machine
end

