-- ==== Sys2Proof/Machine/Dispatch.lean ====
section
/-!
DEFINITION. The meaning of every command: one arm a constructor, each one call.
-/

namespace Sys2Proof.Machine

def exec (i : Instr) (s : State) : Host.Outcome State Fault Refusal :=
  match i with
  | .ident f => Sys2Proof.Machine.execIdent f s
  | .attest f => Sys2Proof.Machine.execAttest f s
  | .read f => Sys2Proof.Machine.execRead f s
  | .write f => Sys2Proof.Machine.execWrite f s
  | .load f => Sys2Proof.Machine.execLoad f s
  | .start f => Sys2Proof.Machine.execStart f s
  | .stop f => Sys2Proof.Machine.execStop f s
  | .halt f => Sys2Proof.Machine.execHalt f s
  | .status f => Sys2Proof.Machine.execStatus f s
  | .setcap f => Sys2Proof.Machine.execSetcap f s
  | .reset f => Sys2Proof.Machine.execReset f s
  | .freeze f => Sys2Proof.Machine.execFreeze f s
  | .readrec f => Sys2Proof.Machine.execReadrec f s
  | .unfreeze f => Sys2Proof.Machine.execUnfreeze f s
  | .controlLinkTrain => Sys2Proof.Machine.execControlLinkTrain s
  | .controlLinkDown lane => Sys2Proof.Machine.execControlLinkDown lane s
  | .secSession v => Sys2Proof.Machine.execSecSession v s
  | .secOwnerIn v => Sys2Proof.Machine.execSecOwnerIn v s
  | .secDbgChal => Sys2Proof.Machine.execSecDbgChal s
  | .secDbgResp verifies => Sys2Proof.Machine.execSecDbgResp verifies s
  | .dbgChallengeExpiry => Sys2Proof.Machine.execDbgChallengeExpiry s
  | .tamperTrip sensor => Sys2Proof.Machine.execTamperTrip sensor s
  | .wdFlip v => Sys2Proof.Machine.execWdFlip v s
  | .wdFlipComplete e => Sys2Proof.Machine.execWdFlipComplete e s
  | .seqCommit v => Sys2Proof.Machine.execSeqCommit v s
  | .seqExpansionDone => Sys2Proof.Machine.execSeqExpansionDone s
  | .marchOnchip => Sys2Proof.Machine.execMarchOnchip s
  | .marchHbm => Sys2Proof.Machine.execMarchHbm s
  | .marchDdr5 => Sys2Proof.Machine.execMarchDdr5 s
  | .marchDone found => Sys2Proof.Machine.execMarchDone found s
  | .sandMarchFailClear => Sys2Proof.Machine.execSandMarchFailClear s
  | .coreReset c => Sys2Proof.Machine.execCoreReset c s
  | .portDisable p => Sys2Proof.Machine.execPortDisable p s
  | .retrain p => Sys2Proof.Machine.execRetrain p s
  | .coreFaultInfo c v => Sys2Proof.Machine.execCoreFaultInfo c v s
  | .scrStatus v => Sys2Proof.Machine.execScrStatus v s
  | .seqStatus v => Sys2Proof.Machine.execSeqStatus v s
  | .scrClear v => Sys2Proof.Machine.execScrClear v s
  | .pnlClear c v => Sys2Proof.Machine.execPnlClear c v s
  | .coreClear c v => Sys2Proof.Machine.execCoreClear c v s
  | .coreFv2Clear c v => Sys2Proof.Machine.execCoreFv2Clear c v s
  | .maClear c v => Sys2Proof.Machine.execMaClear c v s
  | .wsClear c v => Sys2Proof.Machine.execWsClear c v s
  | .veClear c v => Sys2Proof.Machine.execVeClear c v s
  | .spClear c v => Sys2Proof.Machine.execSpClear c v s
  | .coreStnClear c v => Sys2Proof.Machine.execCoreStnClear c v s
  | .seClear c v => Sys2Proof.Machine.execSeClear c v s
  | .qClear c v => Sys2Proof.Machine.execQClear c v s
  | .hbmClear v => Sys2Proof.Machine.execHbmClear v s
  | .ddrClear v => Sys2Proof.Machine.execDdrClear v s
  | .wdClear v => Sys2Proof.Machine.execWdClear v s
  | .seqClear v => Sys2Proof.Machine.execSeqClear v s
  | .fabClear v => Sys2Proof.Machine.execFabClear v s
  | .fabPortClear p v => Sys2Proof.Machine.execFabPortClear p v s
  | .govClear v => Sys2Proof.Machine.execGovClear v s
  | .acgClear v => Sys2Proof.Machine.execAcgClear v s
  | .xngClear v => Sys2Proof.Machine.execXngClear v s
  | .sandClear v => Sys2Proof.Machine.execSandClear v s
  | .secClear v => Sys2Proof.Machine.execSecClear v s
  | .cpClear v => Sys2Proof.Machine.execCpClear v s
  | .registerWrite off v => Sys2Proof.Machine.execRegisterWrite off v s
  | .nop c => Sys2Proof.Machine.execNop c s
  | .add c => Sys2Proof.Machine.execAdd c s
  | .sub c => Sys2Proof.Machine.execSub c s
  | .mul c => Sys2Proof.Machine.execMul c s
  | .and c => Sys2Proof.Machine.execAnd c s
  | .or c => Sys2Proof.Machine.execOr c s
  | .xor c => Sys2Proof.Machine.execXor c s
  | .shl c => Sys2Proof.Machine.execShl c s
  | .shr c => Sys2Proof.Machine.execShr c s
  | .sra c => Sys2Proof.Machine.execSra c s
  | .min c => Sys2Proof.Machine.execMin c s
  | .max c => Sys2Proof.Machine.execMax c s
  | .slt c => Sys2Proof.Machine.execSlt c s
  | .sltu c => Sys2Proof.Machine.execSltu c s
  | .addi c => Sys2Proof.Machine.execAddi c s
  | .andi c => Sys2Proof.Machine.execAndi c s
  | .ori c => Sys2Proof.Machine.execOri c s
  | .shli c => Sys2Proof.Machine.execShli c s
  | .shri c => Sys2Proof.Machine.execShri c s
  | .lui c => Sys2Proof.Machine.execLui c s
  | .sld c => Sys2Proof.Machine.execSld c s
  | .sst c => Sys2Proof.Machine.execSst c s
  | .beq c => Sys2Proof.Machine.execBeq c s
  | .bne c => Sys2Proof.Machine.execBne c s
  | .blt c => Sys2Proof.Machine.execBlt c s
  | .bge c => Sys2Proof.Machine.execBge c s
  | .bltu c => Sys2Proof.Machine.execBltu c s
  | .jmp c => Sys2Proof.Machine.execJmp c s
  | .jal c => Sys2Proof.Machine.execJal c s
  | .jr c => Sys2Proof.Machine.execJr c s
  | .lset c => Sys2Proof.Machine.execLset c s
  | .lend c => Sys2Proof.Machine.execLend c s
  | .rdsys c => Sys2Proof.Machine.execRdsys c s
  | .panelEnd c => Sys2Proof.Machine.execPanelEnd c s
  | .panelStart c => Sys2Proof.Machine.execPanelStart c s
  | .panelPost c => Sys2Proof.Machine.execPanelPost c s
  | .coreHalt c => Sys2Proof.Machine.execCoreHalt c s
  | .haltComplete => Sys2Proof.Machine.execHaltComplete s
  | .mma c => Sys2Proof.Machine.execMma c s
  | .mret c => Sys2Proof.Machine.execMret c s
  | .mdrop c => Sys2Proof.Machine.execMdrop c s
  | .wld c => Sys2Proof.Machine.execWld c s
  | .retirementMove c => Sys2Proof.Machine.execRetirementMove c s
  | .tileReady c => Sys2Proof.Machine.execTileReady c s
  | .vadd c => Sys2Proof.Machine.execVadd c s
  | .vsub c => Sys2Proof.Machine.execVsub c s
  | .vmul c => Sys2Proof.Machine.execVmul c s
  | .vfma c => Sys2Proof.Machine.execVfma c s
  | .vfnma c => Sys2Proof.Machine.execVfnma c s
  | .vmin c => Sys2Proof.Machine.execVmin c s
  | .vmax c => Sys2Proof.Machine.execVmax c s
  | .vabs c => Sys2Proof.Machine.execVabs c s
  | .vneg c => Sys2Proof.Machine.execVneg c s
  | .vamax c => Sys2Proof.Machine.execVamax c s
  | .vcvtif c => Sys2Proof.Machine.execVcvtif c s
  | .vcvtfi c => Sys2Proof.Machine.execVcvtfi c s
  | .vsplit c => Sys2Proof.Machine.execVsplit c s
  | .vsel c => Sys2Proof.Machine.execVsel c s
  | .vmov c => Sys2Proof.Machine.execVmov c s
  | .vclt c => Sys2Proof.Machine.execVclt c s
  | .vcle c => Sys2Proof.Machine.execVcle c s
  | .vceq c => Sys2Proof.Machine.execVceq c s
  | .viadd c => Sys2Proof.Machine.execViadd c s
  | .visub c => Sys2Proof.Machine.execVisub c s
  | .vimul c => Sys2Proof.Machine.execVimul c s
  | .vand c => Sys2Proof.Machine.execVand c s
  | .vor c => Sys2Proof.Machine.execVor c s
  | .vxor c => Sys2Proof.Machine.execVxor c s
  | .vshl c => Sys2Proof.Machine.execVshl c s
  | .vshr c => Sys2Proof.Machine.execVshr c s
  | .vsra c => Sys2Proof.Machine.execVsra c s
  | .vimin c => Sys2Proof.Machine.execVimin c s
  | .vimax c => Sys2Proof.Machine.execVimax c s
  | .viclt c => Sys2Proof.Machine.execViclt c s
  | .vmand c => Sys2Proof.Machine.execVmand c s
  | .vmor c => Sys2Proof.Machine.execVmor c s
  | .vmxor c => Sys2Proof.Machine.execVmxor c s
  | .vmnot c => Sys2Proof.Machine.execVmnot c s
  | .vmld c => Sys2Proof.Machine.execVmld c s
  | .vexp2 c => Sys2Proof.Machine.execVexp2 c s
  | .vlog2 c => Sys2Proof.Machine.execVlog2 c s
  | .vrsqrt c => Sys2Proof.Machine.execVrsqrt c s
  | .vrecip c => Sys2Proof.Machine.execVrecip c s
  | .vrand c => Sys2Proof.Machine.execVrand c s
  | .vdrop c => Sys2Proof.Machine.execVdrop c s
  | .vrsum c => Sys2Proof.Machine.execVrsum c s
  | .vrmax c => Sys2Proof.Machine.execVrmax c s
  | .vrmin c => Sys2Proof.Machine.execVrmin c s
  | .vrisum c => Sys2Proof.Machine.execVrisum c s
  | .vmcnt c => Sys2Proof.Machine.execVmcnt c s
  | .vld c => Sys2Proof.Machine.execVld c s
  | .vldsc c => Sys2Proof.Machine.execVldsc c s
  | .vst c => Sys2Proof.Machine.execVst c s
  | .vstq c => Sys2Proof.Machine.execVstq c s
  | .vstsc c => Sys2Proof.Machine.execVstsc c s
  | .vmxsc c => Sys2Proof.Machine.execVmxsc c s
  | .vftqdrop c => Sys2Proof.Machine.execVftqdrop c s
  | .lfill c => Sys2Proof.Machine.execLfill c s
  | .lcopy c => Sys2Proof.Machine.execLcopy c s
  | .lseg c => Sys2Proof.Machine.execLseg c s
  | .lmOpStart c => Sys2Proof.Machine.execLmOpStart c s
  | .lsegAct c => Sys2Proof.Machine.execLsegAct c s
  | .lmOpComplete c => Sys2Proof.Machine.execLmOpComplete c s
  | .scrubRead c => Sys2Proof.Machine.execScrubRead c s
  | .sgo c => Sys2Proof.Machine.execSgo c s
  | .spld c => Sys2Proof.Machine.execSpld c s
  | .spldDone c e => Sys2Proof.Machine.execSpldDone c e s
  | .sstop c => Sys2Proof.Machine.execSstop c s
  | .send c e => Sys2Proof.Machine.execSend c e s
  | .sbase c e => Sys2Proof.Machine.execSbase c e s
  | .sldi c e => Sys2Proof.Machine.execSldi c e s
  | .sadd c e => Sys2Proof.Machine.execSadd c e s
  | .swrap c e => Sys2Proof.Machine.execSwrap c e s
  | .sread c e => Sys2Proof.Machine.execSread c e s
  | .swrite c e => Sys2Proof.Machine.execSwrite c e s
  | .sgath c e => Sys2Proof.Machine.execSgath c e s
  | .sloop c e => Sys2Proof.Machine.execSloop c e s
  | .snext c e => Sys2Proof.Machine.execSnext c e s
  | .swait c e => Sys2Proof.Machine.execSwait c e s
  | .spost c e => Sys2Proof.Machine.execSpost c e s
  | .spostRelease c e => Sys2Proof.Machine.execSpostRelease c e s
  | .srate c e => Sys2Proof.Machine.execSrate c e s
  | .lineRequest c e => Sys2Proof.Machine.execLineRequest c e s
  | .lineRowLand c src => Sys2Proof.Machine.execLineRowLand c src s
  | .lineComplete c tag => Sys2Proof.Machine.execLineComplete c tag s
  | .lineErrorResponse c tag code => Sys2Proof.Machine.execLineErrorResponse c tag code s
  | .memoryRequest c tag ecc => Sys2Proof.Machine.execMemoryRequest c tag ecc s
  | .mergedLineReturn entry => Sys2Proof.Machine.execMergedLineReturn entry s
  | .hbmRefreshWindow st pc => Sys2Proof.Machine.execHbmRefreshWindow st pc s
  | .hbmTempReport st deg => Sys2Proof.Machine.execHbmTempReport st deg s
  | .hbmRefRate st => Sys2Proof.Machine.execHbmRefRate st s
  | .ddrRefreshWindow ch set => Sys2Proof.Machine.execDdrRefreshWindow ch set s
  | .qSend c => Sys2Proof.Machine.execQSend c s
  | .qRecv c => Sys2Proof.Machine.execQRecv c s
  | .mbSend c => Sys2Proof.Machine.execMbSend c s
  | .mbFree c => Sys2Proof.Machine.execMbFree c s
  | .queueMessageArrival c q => Sys2Proof.Machine.execQueueMessageArrival c q s
  | .creditReturn c r => Sys2Proof.Machine.execCreditReturn c r s
  | .closeNotice c r => Sys2Proof.Machine.execCloseNotice c r s
  | .mailboxRecordLand c m => Sys2Proof.Machine.execMailboxRecordLand c m s
  | .mailboxCredit c r => Sys2Proof.Machine.execMailboxCredit c r s
  | .semWait c => Sys2Proof.Machine.execSemWait c s
  | .semWsub c => Sys2Proof.Machine.execSemWsub c s
  | .semAdd c => Sys2Proof.Machine.execSemAdd c s
  | .semSub c => Sys2Proof.Machine.execSemSub c s
  | .semFenceRelease c => Sys2Proof.Machine.execSemFenceRelease c s
  | .semHomeCycle place => Sys2Proof.Machine.execSemHomeCycle place s
  | .semRelease c party => Sys2Proof.Machine.execSemRelease c party s
  | .semWaitResend c party => Sys2Proof.Machine.execSemWaitResend c party s
  | .waitLimitExpiry c party => Sys2Proof.Machine.execWaitLimitExpiry c party s
  | .remoteWaitExpiry c party => Sys2Proof.Machine.execRemoteWaitExpiry c party s
  | .bankHoldTimeout c => Sys2Proof.Machine.execBankHoldTimeout c s
  | .stld c => Sys2Proof.Machine.execStld c s
  | .stgo c => Sys2Proof.Machine.execStgo c s
  | .stldgo c => Sys2Proof.Machine.execStldgo c s
  | .stencilFrontStart c => Sys2Proof.Machine.execStencilFrontStart c s
  | .sequencerIssue c => Sys2Proof.Machine.execSequencerIssue c s
  | .stencilChainLoad c => Sys2Proof.Machine.execStencilChainLoad c s
  | .stencilComplete c => Sys2Proof.Machine.execStencilComplete c s
  | .tokenMeterCycle b cy => Sys2Proof.Machine.execTokenMeterCycle b cy s
  | .supplyDroop r mhz => Sys2Proof.Machine.execSupplyDroop r mhz s
  | .regionUv r => Sys2Proof.Machine.execRegionUv r s
  | .replicaFail r => Sys2Proof.Machine.execReplicaFail r s
  | .governorEvaluation x => Sys2Proof.Machine.execGovernorEvaluation x s
  | .bayStepApply b => Sys2Proof.Machine.execBayStepApply b s
  | .sandingPassStart c => Sys2Proof.Machine.execSandingPassStart c s
  | .sandingPassDone c ok => Sys2Proof.Machine.execSandingPassDone c ok s
  | .sandingAbort c => Sys2Proof.Machine.execSandingAbort c s
  | .sandingOverdueCheck c => Sys2Proof.Machine.execSandingOverdueCheck c s
  | .watchdog => Sys2Proof.Machine.execWatchdog s
  | .heartbeatSend p => Sys2Proof.Machine.execHeartbeatSend p s
  | .heartbeat p h => Sys2Proof.Machine.execHeartbeat p h s
  | .rootTimeStart => Sys2Proof.Machine.execRootTimeStart s
  | .heartbeatTimeout p => Sys2Proof.Machine.execHeartbeatTimeout p s
  | .portSignalLoss p => Sys2Proof.Machine.execPortSignalLoss p s
  | .portDetect p gen => Sys2Proof.Machine.execPortDetect p gen s
  | .portTrainDone p failed => Sys2Proof.Machine.execPortTrainDone p failed s
  | .trainTimeout p => Sys2Proof.Machine.execTrainTimeout p s
  | .portIdent p id => Sys2Proof.Machine.execPortIdent p id s
  | .laneRepair p x => Sys2Proof.Machine.execLaneRepair p x s
  | .groupReplay p kind => Sys2Proof.Machine.execGroupReplay p kind s
  | .rdLine h ecc => Sys2Proof.Machine.execRdLine h ecc s
  | .wrLine h line poison => Sys2Proof.Machine.execWrLine h line poison s
  | .semOp h kind amount deadline => Sys2Proof.Machine.execSemOp h kind amount deadline s
  | .mbxRec h rec poison => Sys2Proof.Machine.execMbxRec h rec poison s
  | .mbxCredit h bytes => Sys2Proof.Machine.execMbxCredit h bytes s
  | .close h => Sys2Proof.Machine.execClose h s
  | .rdData h line poison => Sys2Proof.Machine.execRdData h line poison s
  | .wrAck h => Sys2Proof.Machine.execWrAck h s
  | .semDone h timeout => Sys2Proof.Machine.execSemDone h timeout s
  | .retry h => Sys2Proof.Machine.execRetry h s
  | .err h code => Sys2Proof.Machine.execErr h code s
  | .mbxAck h => Sys2Proof.Machine.execMbxAck h s
  | .jobFault h serial reason tick => Sys2Proof.Machine.execJobFault h serial reason tick s
  | .recorderEvent => Sys2Proof.Machine.execRecorderEvent s
  | .pwrGoodAssert boot => Sys2Proof.Machine.execPwrGoodAssert boot s
  | .pwrGoodDeassert => Sys2Proof.Machine.execPwrGoodDeassert s
  | .railRetry boot => Sys2Proof.Machine.execRailRetry boot s
  | .lockTimeout => Sys2Proof.Machine.execLockTimeout s
  | .coolantFlowLoss => Sys2Proof.Machine.execCoolantFlowLoss s
  | .ddrLatchOpen ch => Sys2Proof.Machine.execDdrLatchOpen ch s
  | .stldDone c => Sys2Proof.Machine.execStldDone c s
  | .scrimModuleFail link module => Sys2Proof.Machine.execScrimModuleFail link module s
  | .supplyRecovery r => Sys2Proof.Machine.execSupplyRecovery r s
  | .illegalCommand cmd f => Sys2Proof.Machine.execIllegalCommand cmd f s
  | .unsupportedTransaction h op => Sys2Proof.Machine.execUnsupportedTransaction h op s

end Sys2Proof.Machine
end

