-- ==== Sys2Proof/Machine/Tick.lean ====
section
/-!
DEFINITION. What one tick of time brings about with no command waiting (log entry 2): the screed counter and its
slewing (R21), the engines' token buckets (R239), the clock-region registers (Table 15-6), the drift of the bay
crossings (R357), and what waited for time to pass (R295, R301, R338). Everything else that time brings about has a command of its own.
-/

namespace Sys2Proof.Machine

/-- An engine's bucket gains RATE sixteenths of a byte up to its capacity (R239). -/
def Engine.refill (e : Engine) : Engine :=
  { e with bucket := min (e.bucket + e.rate) ((e.burst + 1) * 8192) }

def Core.refill (k : Core) : Core := { k with se := k.se.map fun x => (x.1, x.2.refill) }

/-- The screed counter advances by one tick; at all ones it stays (R10, R21). Every bay's copy and the hub's are this one
counter (DESIGN CHOICE, log entry 103). -/
def State.countTick (s : State) : State :=
  (({ s with scr := { s.scr with now := satAdd 64 s.scr.now 1 } } : State)).mapCores Core.refill

/-- A correction may be made in this tick (R21). -/
def Screed.mayCorrect (x : Screed) : Bool := x.running && decide (x.lastSlew + 1024 ≤ x.now)

/-- A correction of one tick has been made. -/
def State.slewed (s : State) (d : Int) : State :=
  { s with scr := { s.scr with slew := s.scr.slew - d, lastSlew := s.scr.now } }

/-- One nanosecond of region r: FMIN and ACG_STRETCH. -/
def State.regionTick (s : State) (r : Nat) : State :=
  let x := s.region r
  if x.mhz == 0 then s
  else
    let s := s.setRegion r { x with fmin := min x.fmin x.mhz }
    if 100 * x.mhz < 99 * s.target r then s.bumpD (rAcgStretch r) else s

/-- A drift FIFO. -/
structure Fifo where
  ofs : Nat
  acc : Int
  held : Nat
  bubble : Nat
deriving DecidableEq, Repr

/-- One nanosecond of a FIFO whose writer is d thousandths of a cycle faster (R357). -/
def driftStep (ofs : Nat) (acc d : Int) : Fifo :=
  let a := acc + d
  if 1000 ≤ a then (if 14 ≤ ofs then ⟨14, a - 1000, 1, 0⟩ else ⟨ofs + 1, a - 1000, 0, 0⟩)
  else if a ≤ -1000 then (if ofs ≤ 2 then ⟨2, a + 1000, 0, 1⟩ else ⟨ofs - 1, a + 1000, 0, 0⟩)
  else ⟨ofs, a, 0, 0⟩

/-- One nanosecond of the crossing of bay b, between the bay and the spine of its die. -/
def State.crossingTick (s : State) (b : Nat) : State :=
  let x := aget Crossing.init s.xng b
  if !x.plumbed then s
  else
    let d : Int := ((s.region (32 + b / 8)).mhz : Int) - (s.region b).mhz
    let i := driftStep x.ofsIn x.accIn d
    let o := driftStep x.ofsOut x.accOut (-d)
    let y : Crossing :=
      { x with ofsIn := i.ofs, accIn := i.acc, ofsOut := o.ofs, accOut := o.acc,
               outHold := x.outHold + o.held, inHold := x.inHold + i.bubble }
    let s : State := { s with xng := aput s.xng b y }
    let s := if i.held + o.held == 0 then s else { s with dregs := abump s.dregs (0x301004 + 16 * b) (i.held + o.held) }
    if i.bubble + o.bubble == 0 then s
    else { s with dregs := abump s.dregs (0x301008 + 16 * b) (i.bubble + o.bubble) }

/-- One nanosecond of the clocks. -/
def State.nanosecond (s : State) : State :=
  let s : State := { s with scr := { s.scr with ns := s.scr.ns + 1 } }
  let s := (upto nRegions).foldl State.regionTick s
  (upto nBays).foldl State.crossingTick s

/-- What waited for time to pass: REQ buffers (R338), memory requests held by refresh windows (R295, R301), control-port
requests that wait for them. -/
def State.afterTick (s : State) : State :=
  let s := s.drainReqs.serveWaiting s.mem.held.length
  s.serveHeld s.ctl.q.length

/-- One tick: an added one takes no time, a withheld one leaves the counter as it is (R21). -/
def State.tickOnce (s : State) : State :=
  if s.scr.mayCorrect && decide (0 < s.scr.slew) then s.countTick.slewed 1
  else
    let s := s.nanosecond
    if !s.scr.running then s
    else if s.scr.mayCorrect && decide (s.scr.slew < 0) then s.slewed (-1)
    else s.countTick

/-- One tick of a device with power, and what it lets go on. -/
def State.tick (s : State) : State := if s.clocked then s.tickOnce.afterTick else s

end Sys2Proof.Machine
end

