-- ==== Sys2Proof/Safety.lean ====
section
/-!
DEFINITION. The terms in which the statements speak: when a bundle issues, and the invariants of the device.
-/

namespace Sys2Proof.Machine

/-- The bundle at the issue point of core c issues in this cycle: the device is RUNNING, the core is in a panel and may
issue (R49, R50), bundle memory is the source (R51), no interlock holds the bundle (R61, R66), it breaks no rule
(R67, R284), and each of its requests wins its bank port (R64). -/
def State.issues (s : State) (c : Nat) : Bool :=
  let k := s.core c
  let b := k.atIssue
  let i := k.bundleIndex
  decide (c < nCores) && s.ctl.st == stRunning && k.mayIssue && !k.stn.active &&
    (holdCause k s.fab.coord c (s.cyc c) b i).isNone && (bundleViols k s.fab.coord c (s.cyc c) b i).isEmpty &&
    (tryPorts k b (s.cyc c)).lost.isEmpty

/-- The state once the bundle's requests hold their bank ports. -/
def State.ported (s : State) (c : Nat) : State :=
  s.setCore c ((s.core c).takePorts (tryPorts (s.core c) (s.core c).atIssue (s.cyc c)).won)

/-- The state after the operations of all slots of the bundle at the issue point (R47). -/
def State.slotsRun (s : State) (c : Nat) : State :=
  (s.ported c).runSlots c (s.core c).atIssue (s.core c).bundleIndex

/-! ### Rows of the table by slot -/

/-- Rows that an operation of the scalar slot (Table 03-6) stands for, with its value. -/
def rowsScl : List ((Nat → Instr) × Nat) :=
  [(.add, 0x01), (.sub, 0x02), (.mul, 0x03), (.and, 0x04), (.or, 0x05), (.xor, 0x06), (.shl, 0x07),
    (.shr, 0x08), (.sra, 0x09), (.min, 0x0A), (.max, 0x0B), (.slt, 0x0C),
    (.sltu, 0x0D), (.addi, 0x10), (.andi, 0x11), (.ori, 0x12), (.shli, 0x13), (.shri, 0x14), (.lui, 0x15),
    (.sld, 0x18), (.sst, 0x19), (.beq, 0x20), (.bne, 0x21), (.blt, 0x22),
    (.bge, 0x23), (.bltu, 0x24), (.jmp, 0x25), (.jal, 0x26), (.jr, 0x27), (.lset, 0x28), (.lend, 0x29),
    (.rdsys, 0x30)]

/-- Rows that an operation of the matrix slot (Table 04-3) stands for, with its value. -/
def rowsMat : List ((Nat → Instr) × Nat) :=
  [(.mma, 0x01), (.mret, 0x02), (.mdrop, 0x03), (.wld, 0x04)]

/-- Rows that an operation of the vector slot (Table 06-2) stands for, with its value. -/
def rowsVecLo : List ((Nat → Instr) × Nat) :=
  [(.vadd, 0x01), (.vsub, 0x02), (.vmul, 0x03), (.vfma, 0x04), (.vfnma, 0x05), (.vmin, 0x06), (.vmax, 0x07),
    (.vabs, 0x08), (.vneg, 0x09), (.vamax, 0x0A), (.vcvtif, 0x0B), (.vcvtfi, 0x0C),
    (.vsplit, 0x0D), (.vsel, 0x0E), (.vmov, 0x0F), (.vclt, 0x10), (.vcle, 0x11), (.vceq, 0x12),
    (.viadd, 0x18), (.visub, 0x19), (.vimul, 0x1A), (.vand, 0x1B), (.vor, 0x1C), (.vxor, 0x1D),
    (.vshl, 0x1E), (.vshr, 0x1F), (.vsra, 0x20), (.vimin, 0x21), (.vimax, 0x22), (.viclt, 0x23)]

/-- The rest of them. -/
def rowsVecHi : List ((Nat → Instr) × Nat) :=
  [(.vmand, 0x28), (.vmor, 0x29), (.vmxor, 0x2A), (.vmnot, 0x2B), (.vmld, 0x2C), (.vexp2, 0x30),
    (.vlog2, 0x31), (.vrsqrt, 0x32), (.vrecip, 0x33), (.vrand, 0x38), (.vdrop, 0x39), (.vrsum, 0x40),
    (.vrmax, 0x41), (.vrmin, 0x42), (.vrisum, 0x43), (.vmcnt, 0x44), (.vld, 0x48), (.vldsc, 0x49),
    (.vst, 0x4A), (.vstq, 0x4B), (.vstsc, 0x4C), (.vmxsc, 0x4D), (.vftqdrop, 0x50)]

/-- Rows of the vector slot. -/
def rowsVec : List ((Nat → Instr) × Nat) := rowsVecLo ++ rowsVecHi

/-- Rows that an operation of the local-memory slot (Table 07-4) stands for, with its value. -/
def rowsLms : List ((Nat → Instr) × Nat) :=
  [(.lfill, 0x01), (.lcopy, 0x02), (.lseg, 0x03)]

/-- Rows that an operation of the control slot (Tables 08-1, 10-1, 11-3) stands for, with its value. -/
def rowsCtl : List ((Nat → Instr) × Nat) :=
  [(.sgo, 0x01), (.spld, 0x02), (.sstop, 0x03), (.qSend, 0x10), (.qRecv, 0x11), (.mbSend, 0x14),
    (.mbFree, 0x15), (.semWait, 0x18), (.semWsub, 0x19), (.semAdd, 0x1A), (.semSub, 0x1B), (.stld, 0x30),
    (.stgo, 0x31), (.stldgo, 0x32)]

/-- Every row whose bundle the core attempts: the command, and which bundles carry it. -/
def bundleRows : List ((Nat → Instr) × (Bundle → Bool)) :=
  (rowsScl.map fun r => (r.1, fun b => b.scl.op == r.2)) ++ (rowsMat.map fun r => (r.1, fun b => b.mat.mop == r.2)) ++
    (rowsVec.map fun r => (r.1, fun b => b.vec.vop == r.2)) ++ (rowsLms.map fun r => (r.1, fun b => b.lms.lop == r.2)) ++
    (rowsCtl.map fun r => (r.1, fun b => b.ctl.cop == r.2)) ++
    [(.nop, fun b => someNop b || unlisted b), (.panelEnd, fun b => b.mark)]

/-- Scalar operations that write S[RD] from their operands alone (Table 03-6): the row, its value, the result on RS1,
RS2 and IMM. -/
def aluRows : List ((Nat → Instr) × Nat × (Word → Word → Nat → Word)) :=
  [(.add, 0x01, fun a b _ => a + b), (.sub, 0x02, fun a b _ => a - b), (.mul, 0x03, fun a b _ => a * b),
    (.and, 0x04, fun a b _ => a &&& b), (.or, 0x05, fun a b _ => a ||| b), (.xor, 0x06, fun a b _ => a ^^^ b),
    (.shl, 0x07, fun a b _ => a <<< (b.toNat % 32)), (.shr, 0x08, fun a b _ => a >>> (b.toNat % 32)),
    (.sra, 0x09, fun a b _ => a.sshiftRight (b.toNat % 32)),
    (.min, 0x0A, fun a b _ => if a.slt b then a else b), (.max, 0x0B, fun a b _ => if a.slt b then b else a),
    (.slt, 0x0C, fun a b _ => if a.slt b then 1#32 else 0#32),
    (.sltu, 0x0D, fun a b _ => if a.ult b then 1#32 else 0#32),
    (.addi, 0x10, fun a _ n => a + BitVec.ofInt 32 (sext 17 n)), (.andi, 0x11, fun a _ n => a &&& BitVec.ofNat 32 n),
    (.ori, 0x12, fun a _ n => a ||| BitVec.ofNat 32 n), (.shli, 0x13, fun a _ n => a <<< (n % 32)),
    (.shri, 0x14, fun a _ n => a >>> (n % 32)), (.lui, 0x15, fun _ _ n => BitVec.ofNat 32 n <<< 15)]

/-- Branches (Table 03-6): the row, its value, when it is taken, on RS1 and RS2. -/
def branchRows : List ((Nat → Instr) × Nat × (Word → Word → Bool)) :=
  [(.beq, 0x20, fun a b => a == b), (.bne, 0x21, fun a b => a != b), (.blt, 0x22, fun a b => a.slt b),
    (.bge, 0x23, fun a b => !a.slt b), (.bltu, 0x24, fun a b => a.ult b), (.jmp, 0x25, fun _ _ => true),
    (.jal, 0x26, fun _ _ => true), (.jr, 0x27, fun _ _ => true)]

/-- RDSYS (Table 03-7): the value of index i that core c reads. -/
def sysValue (s : State) (c : Nat) : Nat → Word
  | 0 => BitVec.ofNat 32 s.scr.now
  | 1 => (s.core c).sc.tickHi
  | 2 => BitVec.ofNat 32 (s.core c).pnl.step
  | 3 => (s.core c).sc.stepHi
  | 4 => BitVec.ofNat 32 c
  | 5 => BitVec.ofNat 32 s.fab.coord
  | 6 => (s.core c).lc 0
  | 7 => (s.core c).lc 1
  | 8 => (s.core c).lc 2
  | 9 => (s.core c).lc 3
  | 10 => BitVec.ofNat 32 (s.core c).pnl.index
  | _ => BitVec.ofNat 32 (fplan (s.bay (c / 56)).step)

/-- Element-wise operations of classes E and F (Table 06-2): the row, its value, its latency (Table 06-6), one lane
of the result on the lanes of A, B and C. -/
def laneRows : List ((Nat → Instr) × Nat × Nat × (Word → Word → Word → Word)) :=
  [(.vadd, 0x01, 4, fun a b _ => add32 a b), (.vsub, 0x02, 4, fun a b _ => sub32 a b),
    (.vmul, 0x03, 4, fun a b _ => mul32 a b), (.vfma, 0x04, 4, fma32), (.vfnma, 0x05, 4, fnma32),
    (.vmin, 0x06, 4, fun a b _ => fmin32 a b), (.vmax, 0x07, 4, fun a b _ => fmax32 a b),
    (.vabs, 0x08, 4, fun a _ _ => abs32 a), (.vneg, 0x09, 4, fun a _ _ => neg32 a),
    (.vamax, 0x0A, 4, fun a b _ => fmax32 (finAbs32 a) (finAbs32 b)), (.vcvtif, 0x0B, 4, fun a _ _ => cvtIF a),
    (.vmov, 0x0F, 4, fun a _ _ => a), (.viadd, 0x18, 4, fun a b _ => a + b), (.visub, 0x19, 4, fun a b _ => a - b),
    (.vimul, 0x1A, 4, fun a b _ => a * b), (.vand, 0x1B, 4, fun a b _ => a &&& b),
    (.vor, 0x1C, 4, fun a b _ => a ||| b), (.vxor, 0x1D, 4, fun a b _ => a ^^^ b),
    (.vshl, 0x1E, 4, fun a b _ => a <<< (b.toNat % 32)), (.vshr, 0x1F, 4, fun a b _ => a >>> (b.toNat % 32)),
    (.vsra, 0x20, 4, fun a b _ => a.sshiftRight (b.toNat % 32)),
    (.vimin, 0x21, 4, fun a b _ => if a.slt b then a else b), (.vimax, 0x22, 4, fun a b _ => if a.slt b then b else a),
    (.vexp2, 0x30, 12, fun a _ _ => exp2_32 a), (.vlog2, 0x31, 12, fun a _ _ => log2_32 a),
    (.vrsqrt, 0x32, 12, fun a _ _ => rsqrt32 a), (.vrecip, 0x33, 12, fun a _ _ => recip32 a)]

/-- Compares (R141): the row, its value, one bit of the mask on the lanes of A and B. -/
def compareRows : List ((Nat → Instr) × Nat × (Word → Word → Bool)) :=
  [(.vclt, 0x10, fun a b => flt (dec32 a) (dec32 b)),
    (.vcle, 0x11, fun a b => flt (dec32 a) (dec32 b) || feq (dec32 a) (dec32 b)),
    (.vceq, 0x12, fun a b => feq (dec32 a) (dec32 b)), (.viclt, 0x23, fun a b => a.slt b)]

/-- Mask operations (Table 06-2): the row, its value, the result on M[VA], M[VB] and the S registers VA and VB. -/
def maskRows : List ((Nat → Instr) × Nat × (DWord → DWord → Word → Word → DWord)) :=
  [(.vmand, 0x28, fun a b _ _ => a &&& b), (.vmor, 0x29, fun a b _ _ => a ||| b), (.vmxor, 0x2A, fun a b _ _ => a ^^^ b),
    (.vmnot, 0x2B, fun a _ _ _ => ~~~a), (.vmld, 0x2C, fun _ _ x y => BitVec.ofNat 64 (x.toNat + y.toNat <<< 32))]

/-- Operands of a vector slot as the bundle reads them (R47, R139). -/
def vecArgs (k : Core) (x : VecSlot) : VArgs := vargs k x ((vform x.vop).getD .fd)

/-- What an MMA with slot x and tag t reads for array a, as the operands stand at issue (R79, R82, R95). -/
def mmaReads (s : State) (c : Nat) (x : MatSlot) (t : Tag) (a : Nat) : MmaIn :=
  let k := s.core c
  let w := s.weightSide c x t
  let z := if x.srd then (s.readCol c (x.wsa / 4 - 1)).2 else (0#512, false)
  let v := (s.readAct c x a).2
  let r := (s.readScales c x a).2
  ⟨w.2.1, w.2.2, z.1, z.2, v.1, v.2, r.1, r.2,
    if x.axis == 0 && x.glz && x.sel != 0 then k.s (x.sel + a) else ~~~0#32⟩

/-- The bits that VST or VSTQ writes of its row, with the mask of them: the elements of the lanes that act, in the layout of
G and ILV (R144, R146, R147). -/
def storeBitsOf (k : Core) (c : Nat) (x : VecSlot) : Nat × Nat :=
  let md := rndOf (bits x.vaux 1 0)
  let els := ((laneMap x.fmt (bits x.vaux 5 4) (bit x.vaux 3)).getD []).filterMap fun p =>
    if (actMask k x).getLsbD p.1 then
      some (p.2, storeElem x.fmt md (bit x.vaux 2) (if md == .sr then (k.draw c k.pnl.step x p.1).toNat else 0)
        (if x.vop == 0x4B then some ((k.v x.vb).getD p.1 0#32) else none) ((k.v x.va).getD p.1 0#32))
    else none
  storeBits (((vfmt x.fmt).map VFmt.w).getD 32) els

/-- An effect under way in core c of t, visible lat cycles of the pipeline clock after issue at core k. -/
def State.coming (t : State) (c : Nat) (k : Core) (lat : Nat) (e : Effect) : Prop :=
  ∃ d ∈ (t.core c).inflight, d.eff = e ∧ d.pipe = true ∧ d.due = k.is.clk + lat

/-! ### The control port -/

/-- Commands of the control port (Table 18-3), with their CMD. -/
def frameRows : List ((Frame → Instr) × Nat) :=
  [(.ident, 0x01), (.attest, 0x02), (.read, 0x03), (.write, 0x04), (.load, 0x05), (.start, 0x06), (.stop, 0x07),
    (.halt, 0x08), (.status, 0x09), (.setcap, 0x0A), (.reset, 0x0B), (.freeze, 0x0C), (.readrec, 0x0D),
    (.unfreeze, 0x0E)]

/-- A frame reaches the security check: the device is clocked, the link is trained, the CRC holds (R405, R406). -/
def State.hears (s : State) (f : Frame) : Bool := s.clocked && s.ctl.lanes == 15 && f.crcOk

/-- No request waits at the port. -/
def State.portIdle (s : State) : Bool := s.ctl.q.isEmpty && s.ctl.sp.isNone && s.ctl.busy.isNone

/-- The state with the request as the only one that waits. -/
def State.asks (s : State) (cmd : Nat) (f : Frame) : State :=
  let u := s.useCounter f
  { u with ctl := { u.ctl with q := [(cmd, f)] } }

/-- The request is served at once: none waits before it, and its memory accesses meet no refresh window and no scratchpad; it
is legal and well-formed (R171, R295, R398, R407, R408, R415). -/
def State.takes (s : State) (cmd : Nat) (f : Frame) : Bool :=
  s.hears f && s.sessionOk cmd f && s.portIdle && !(s.asks cmd f).stillHeld cmd &&
    ((s.asks cmd f).beginAccess cmd f).isNone && s.legal cmd f.first && s.formed cmd f

/-- The state in which a served request acts: its session counter is used up, and it is counted. -/
def State.counted (s : State) (f : Frame) : State := (s.useCounter f).bumpD 0x600010

/-- The reply that a request leaves (Table 18-1). -/
def replyOf (cmd : Nat) (f : Frame) (status arg0 arg1 : Nat) (payload : List Byte) : Out :=
  .reply cmd f.tag status arg0 arg1 payload (if f.auth then some f.counter else none)

/-! ### Clearing registers -/

/-- Clearing registers in a core's window: the row, and the counters that each bit sets to 0 (Tables 02-9, 03-14, 04-8,
06-9, 07-8, 08-11, 09-3, 10-7, 11-10). -/
def coreClears : List ((Nat → Word → Instr) × List (Nat × Nat)) :=
  [(.pnlClear, [(0, 0x4028), (1, 0x402C), (2, 0x4030), (3, 0x4034), (4, 0x4038)]),
    (.coreClear, [(0, 0x28), (1, 0x24), (3, 0x40), (4, 0x44), (5, 0x48), (6, 0x4C), (7, 0x50), (8, 0x54), (9, 0x58),
      (10, 0x5C)]),
    (.coreFv2Clear, [(0, 0x210)]),
    (.maClear, [(0, 0x1020), (1, 0x1024), (2, 0x1028), (3, 0x102C), (4, 0x1030), (5, 0x1034)]),
    (.wsClear, [(0, 0x1100), (1, 0x1104), (2, 0x1108)]),
    (.veClear, [(0, 0x1580), (1, 0x1584), (2, 0x1588), (3, 0x158C)]),
    (.spClear, [(0, 0x5008), (1, 0x500C), (2, 0x5018), (3, 0x501C)]),
    (.coreStnClear, [(0, 0x1A18), (1, 0x1A1C), (2, 0x1A20), (3, 0x1A24), (4, 0x1A28)]),
    (.seClear, ((upto 4).flatMap fun n => (upto 5).map fun i => (5 * n + i, 0x640C + 0x20 * n + 4 * i)) ++
      [(20, 0x6704), (21, 0x6708)]),
    (.qClear, [(0, 0x7274), (1, 0x7278), (2, 0x7600)] ++
      ((upto 8).flatMap fun q => [(3 + q, 0x7304 + 0x20 * q), (3 + q, 0x7308 + 0x20 * q), (11 + q, 0x7410 + 0x20 * q),
        (11 + q, 0x7414 + 0x20 * q)]) ++
      (upto 4).flatMap fun m => [(19 + m, 0x750C + 0x20 * m), (19 + m, 0x7510 + 0x20 * m)])]

/-- Clearing registers in the device window (Tables 02-2, 13-8, 14-9, 15-6, 16-9, 17-12, 18-10). -/
def deviceClears : List ((Word → Instr) × List (Nat × Nat)) :=
  [(.scrClear, [(0, 0x1014)]),
    (.hbmClear, [(0, 0x1000C), (1, 0x10010), (2, 0x10014), (3, 0x10018)] ++ (upto 12).map fun n => (4, 0x10100 + 4 * n)),
    (.ddrClear, [(0, 0x12004), (1, 0x12008)]),
    (.wdClear, [(0, 0x22010)]),
    (.seqClear, [(0, 0x30020), (1, 0x30024)]),
    (.fabClear, [(0, 0x200018), (1, 0x20001C), (2, 0x200020), (3, 0x200024), (4, 0x200028), (5, 0x20002C)]),
    (.govClear, [(0, 0x300010), (1, 0x300014)]),
    (.acgClear, (upto 37).flatMap fun r => [(1, 0x300204 + 16 * r), (1, 0x300208 + 16 * r)]),
    (.xngClear, (upto 32).flatMap fun b => (upto 3).map fun i => (0, 0x301004 + 16 * b + 4 * i)),
    (.sandClear, [(0, 0x410008), (1, 0x41000C), (2, 0x410010), (3, 0x410014), (4, 0x410018)]),
    (.secClear, [(0, 0x500010), (1, 0x500014), (2, 0x500018)]),
    (.cpClear, [(0, 0x600004), (1, 0x600008), (2, 0x60000C), (3, 0x600010), (4, 0x600014)])]

/-- A write of v with the pairs sel of bits and counters sets the counter at off to 0. -/
def clearsAt (sel : List (Nat × Nat)) (v off : Nat) : Bool := sel.any fun x => x.2 == off && bit v x.1

/-! ### Streams -/

/-- Stream instructions (Table 10-2) with their opcode. -/
def streamRows : List ((Nat → Nat → Instr) × Nat) :=
  [(.send, 0x00), (.sbase, 0x01), (.sldi, 0x02), (.sadd, 0x03), (.swrap, 0x04), (.sread, 0x08), (.swrite, 0x09),
    (.sgath, 0x0A), (.sloop, 0x10), (.snext, 0x11), (.swait, 0x18), (.spost, 0x19), (.srate, 0x1C)]

/-- The engine's violation has stopped it and its core (R250). -/
def Core.streamStopped (k : Core) (n : Nat) : Prop := k.is.stopped = true ∧ (k.engine n).run ≠ 1

/-- t is s with engine n of core c as g, in the next cycle at the instruction after the one at g.pc; past instruction 31
it has stopped with g's registers (R227). -/
def streamWent (s t : State) (c n : Nat) (g : Engine) : Prop :=
  if g.pc < 31 then t = s.modCore c fun k => k.setEngine n { g with pc := g.pc + 1, nextAt := s.cyc c + 1 }
  else (t.core c).streamStopped n ∧ ((t.core c).engine n).ar = g.ar ∧ ((t.core c).engine n).bind = g.bind ∧
    ((t.core c).engine n).lp = g.lp

/-- An effect under way in core k, visible when the bay's cycle count reaches t. -/
def Core.landingAt (k : Core) (t : Nat) (e : Effect) : Prop := ∃ d ∈ k.inflight, d.eff = e ∧ d.pipe = false ∧ d.due = t

/-- A request of party p of core c on a semaphore of this device has reached its home: kind 0 add, 1 wait, 2 wait and
subtract. -/
def State.atHome (t : State) (m : SemMsg) (addr : Nat) : Prop :=
  ∃ p, semPlace (gaOff addr) = some p ∧ m ∈ aget [] t.semIn p

/-! ### Semaphores and time -/

/-- A wait of core c has timed out (R264): the core stops, SEM_TIMEOUT_CNT counts, and a RUNNING device without a job
fault raises it with reason TIMEOUT. -/
def timedOut (s t : State) (c addr : Nat) : Prop :=
  (t.core c).is.stopped = true ∧ (t.core c).reg rSemTimeout = satAdd 32 ((s.core c).reg rSemTimeout) 1 ∧
    (s.ctl.st = stRunning → s.ctl.fault = none → t.ctl.fault = some ⟨5, s.fab.coord, c, addr, s.scr.ns, some (bayOf c, s.cyc c)⟩)

/-- A fatal error has been recorded (R373): PATCH_STATUS.FATAL, a record with its code, and the job fault of a RUNNING
device that has none. -/
def fatalSeen (s t : State) (code reason core : Nat) : Prop :=
  bit (t.dreg 0x400000) 0 = true ∧ (∃ r ∈ t.er.q, r.code = code ∧ r.tick = s.scr.now) ∧
    (s.ctl.st = stRunning → s.ctl.fault = none → t.ctl.fault = some ⟨reason, s.fab.coord, core, 0, s.scr.ns, s.faultCycle reason core⟩)

/-! ### The fabric -/

/-- The header names a port that is ACTIVE, this device, and its partition's PID and EPOCH (R333, R345). -/
def State.mine (s : State) (h : FabHeader) : Bool :=
  headerOk h && (s.port h.port).st == psActive && h.dst == s.fab.coord && h.pid == s.pid && h.epoch == s.epochNo

/-- A request that the device takes now: the header is right, none waits before it, and one of the 16,384 places is free
(R338). -/
def State.takesReq (s : State) (h : FabHeader) : Bool :=
  s.mine h && (s.port h.port).reqBuf.isEmpty && decide (s.fab.inb < 16384)

/-- The port through which a transaction leaves at once, where routing gives one that is ACTIVE, has been so since the last
START, and carries it (R333, R347, R350). -/
def State.leaves (s : State) (op dst x : Nat) : Option Nat :=
  match nextPort s.foldUsable s.fab.dims s.fab.coord dst with
  | some p => if (s.port p).st == psActive && !(s.port p).again && carries (s.port p).gen op dst x then some p else none
  | none => none

/-- What t has sent beyond s is the answer to request h, where a port carries it. -/
def answeredWith (s t : State) (h : FabHeader) (op addr : Nat) (data : List Byte) (poison : Bool) (x : List Nat) : Prop :=
  ∀ p, s.leaves op h.src (x.headD 0) = some p →
    t.out = s.out ++ [.fabric p op s.fab.coord h.src h.tag addr s.pid s.epochNo data poison x]

/-- The request that the response h answers, among the waiting ones of the given kinds, and the others (R338). -/
def State.asked (s : State) (h : FabHeader) (kinds : List Nat) : Option (FabReq × List FabReq) :=
  takeFirst (fun r : FabReq => r.tag == h.tag && kinds.contains r.kind) s.fab.reqs

/-! ### Invariants -/

/-- A zeroised device holds no key and no session (R389, R401, R403). -/
def State.erased (s : State) : Prop :=
  s.sec.zeroised = true → s.sec.idk = false ∧ s.sec.dtk = false ∧ s.sec.ddrKeys = false ∧ s.sec.jobKey = false ∧
    s.sec.partKey = false ∧ s.sec.linkKeys = false ∧ s.sec.session = none

/-- The byte memories of a core are in canonical form. -/
def Core.memWf (k : Core) : Bool := Memory.wf k.sp.mem && Memory.wf k.bm

/-- Every byte memory of the device, and the list of its cores, is in canonical form. -/
def State.memWf (s : State) : Bool :=
  Memory.wf s.mem.hbm && Memory.wf s.mem.ddr && keysRise s.cores && s.dflt.memWf && s.cores.all fun x => x.2.memWf

/-- The device is in a state of Table 18-4, and every bay at, and bound for, a step of Table 15-2. -/
def State.modesLegal (s : State) : Prop :=
  s.ctl.st ≤ 6 ∧ ∀ b, (s.bay b).step ≤ 3 ∧ ∀ p, (s.bay b).pstep = some p → p ≤ 3

/-! ### Which commands write what -/

/-- Commands that may write whatever the control node can, and those that take the power or the contents away. -/
def writesAll : Instr → Bool
  | .write _ | .load _ | .reset _ | .illegalCommand _ _ | .marchDone _ | .secDbgResp _ | .tamperTrip _
  | .pwrGoodDeassert | .coolantFlowLoss | .ddrLatchOpen _ | .governorEvaluation _ => true
  | _ => false

/-- Commands that may change a byte of HBM or DDR5 (R245, R290, R315, R337). -/
def writesTiers : Instr → Bool
  | .memoryRequest _ _ _ | .wrLine _ _ _ | .seqExpansionDone => true
  | i => writesAll i

/-- Commands that may change a byte of a scratchpad: a bay's cycle, in which row writes become visible, and core
resets (R60, R438). -/
def writesPads : Instr → Bool
  | .tokenMeterCycle _ _ | .coreReset _ | .registerWrite _ _ => true
  | i => writesAll i

/-- Commands that may change a semaphore: the homes' cycle and register writes (R253, R259). -/
def writesSems : Instr → Bool
  | .semHomeCycle _ | .registerWrite _ _ => true
  | i => writesAll i

end Sys2Proof.Machine
end

