-- ==== Sys2Proof/Certificates/Slice0/Obligations.lean ====
section
/-! DEFINITION. The statements for the provers. -/

open Sys2Proof Sys2Proof.Machine

/-! ### Bundles -/

/-- R49, R50, R58: a bundle that issues moves issue on: the next bundle is the one after it, or the target of the
branch whose delay bundle it is; the one after that may issue RUN cycles later. Every row of the bundle families. R48:
a bundle whose slots all hold NOP and that carries no mark does nothing but issue. -/
def Obligations.bundle_issue_point : Prop :=
  (∀ row ∈ bundleRows, ∀ (s : State) (c : Nat), s.issues c = true → row.2 (s.core c).atIssue = true →
    let k := s.core c
    let b := k.atIssue
    ∃ t, exec (row.1 c) s = .next t ∧
      (t.core c).is.next = (if k.is.delay then k.is.target else k.bundleIndex + 1) ∧
      (t.core c).is.delay = isBranch b.scl.op ∧
      (t.core c).is.eligible = k.is.clk + 1 + (if b.mark then 0 else b.run) ∧
      (t.core c).is.pcIndex = k.bundleIndex ∧ (t.core c).is.pcDelay = k.is.delay) ∧
  (∀ (s : State) (c : Nat), s.issues c = true →
    let k := s.core c
    let b := k.atIssue
    b.scl.op = 0 → b.mat.mop = 0 → b.vec.vop = 0 → b.lms.lop = 0 → b.ctl.cop = 0 → b.mark = false →
      ∃ is', exec (.nop c) s = .next (s.setCore c { k with is := is' }) ∧ is'.clk = k.is.clk ∧ is'.wait = k.is.wait ∧
        is'.stopped = k.is.stopped ∧ is'.tok = k.is.tok)

/-- R47, R60: a bundle changes no V or mask register, scratchpad byte or weight column in its issue cycle, loses no
effect under way, and touches neither the memories nor the semaphores, the screed time, the keys, nor the scalar unit
of another core. Every row of the bundle families. -/
def Obligations.bundle_frame : Prop :=
  ∀ row ∈ bundleRows, ∀ (s : State) (c : Nat), s.issues c = true → row.2 (s.core c).atIssue = true →
    ∃ t, exec (row.1 c) s = .next t ∧ t.pending = s.pending ∧ t.mem = s.mem ∧ t.sem = s.sem ∧ t.sec = s.sec ∧
      t.pat = s.pat ∧ t.scr = s.scr ∧ t.ctl.st = s.ctl.st ∧
      (∀ d, (t.core d).ve.v = (s.core d).ve.v ∧ (t.core d).ve.m = (s.core d).ve.m ∧
        (t.core d).mx.ws = (s.core d).mx.ws ∧ (t.core d).bm = (s.core d).bm ∧
        (∀ a, mget (t.core d).sp.mem a = mget (s.core d).sp.mem a) ∧
        ∀ e ∈ (s.core d).inflight, e ∈ (t.core d).inflight) ∧
      ∀ d, d ≠ c → (t.core d).sc = (s.core d).sc

/-- Table 03-6: the arithmetic rows write their result to S[RD], visible at once; S0 stays 0; no other S register and
no loop counter changes. R57, Table 03-7: RDSYS reads its value into S[RD]; index 0 latches the upper half of the tick
for index 1, index 2 that of the step for index 3. -/
def Obligations.scalar_results : Prop :=
  (∀ row ∈ aluRows, ∀ (s : State) (c : Nat), s.issues c = true → (s.core c).atIssue.scl.op = row.2.1 →
    let k := s.core c
    let x := k.atIssue.scl
    ∃ t, exec (row.1 c) s = .next t ∧ (t.core c).sc.lc = k.sc.lc ∧
      ∀ n, (t.core c).s n = if n = x.rd ∧ n ≠ 0 then row.2.2 (k.s x.rs1) (k.s x.rs2) x.imm else k.s n) ∧
  (∀ (s : State) (c : Nat), s.issues c = true → (s.core c).atIssue.scl.op = 0x30 →
    let k := s.core c
    let x := k.atIssue.scl
    ∃ t, exec (.rdsys c) s = .next t ∧
      (∀ n, (t.core c).s n = if n = x.rd ∧ n ≠ 0 then sysValue s c x.imm else k.s n) ∧
      (t.core c).sc.tickHi = (if x.imm = 0 then BitVec.ofNat 32 (s.scr.now >>> 32) else k.sc.tickHi) ∧
      (t.core c).sc.stepHi = (if x.imm = 2 then BitVec.ofNat 32 (bits k.pnl.step 47 32) else k.sc.stepHi))

/-- R58: after a branch the next bundle in sequence, its delay bundle, issues next; after that, issue goes on at IMM, or
at S[RS1] for JR, when the branch is taken, and at the bundle after the delay bundle otherwise. JAL writes the
index after its delay bundle to S[RD]. R58: LSET sets its loop counter; LEND counts it down and branches while it was
above 1, and leaves it 0 otherwise. No S register changes. -/
def Obligations.branches_and_loops : Prop :=
  (∀ row ∈ branchRows, ∀ (s : State) (c : Nat), s.issues c = true → (s.core c).atIssue.scl.op = row.2.1 →
    let k := s.core c
    let x := k.atIssue.scl
    ∃ t, exec (row.1 c) s = .next t ∧ (t.core c).is.delay = true ∧ (t.core c).is.next = k.bundleIndex + 1 ∧
      (t.core c).is.eligible = k.is.clk + 1 + k.atIssue.run ∧
      (t.core c).is.target =
        (if row.2.2 (k.s x.rs1) (k.s x.rs2) then
          (if x.op = 0x27 then (k.s x.rs1).toNat % 2048 else x.imm % 2048) else k.bundleIndex + 2) ∧
      ∀ n, (t.core c).s n =
        if x.op = 0x26 ∧ n = x.rd ∧ n ≠ 0 then BitVec.ofNat 32 (k.bundleIndex + 2) else k.s n) ∧
  (∀ (s : State) (c : Nat), s.issues c = true →
    let k := s.core c
    let x := k.atIssue.scl
    (x.op = 0x28 → ∃ t, exec (.lset c) s = .next t ∧ (∀ n, (t.core c).s n = k.s n) ∧
      ∀ m, (t.core c).lc m = if m = x.rd % 4 then k.s x.rs1 + BitVec.ofInt 32 (sext 17 x.imm) else k.lc m) ∧
    (x.op = 0x29 → ∃ t, exec (.lend c) s = .next t ∧ (∀ n, (t.core c).s n = k.s n) ∧
      (∀ m, (t.core c).lc m =
        if m = x.rd % 4 then (if 1 < (k.lc m).toNat then k.lc m - 1#32 else 0#32) else k.lc m) ∧
      (t.core c).is.delay = true ∧ (t.core c).is.next = k.bundleIndex + 1 ∧
      (t.core c).is.target = if 1 < (k.lc (x.rd % 4)).toNat then x.imm % 2048 else k.bundleIndex + 2)) ∧
  (∀ row ∈ bundleRows, ∀ (s : State) (c : Nat), s.issues c = true → row.2 (s.core c).atIssue = true →
    (s.core c).is.delay = true →
      ∃ t, exec (row.1 c) s = .next t ∧ (t.core c).is.next = (s.core c).is.target ∧ (t.core c).is.delay = false ∧
        (t.core c).is.eligible =
          (s.core c).is.clk + 1 + (if (s.core c).atIssue.mark then 0 else (s.core c).atIssue.run))

/-- R56, R60, R157: SLD brings the word at S[RS1] + IMM to S[RD] seven cycles after issue, where its row is not
poisoned; SST writes the word S[RS2] there, visible from the third cycle on. No S register changes at issue. -/
def Obligations.scalar_memory : Prop :=
  ∀ (s : State) (c : Nat), s.issues c = true →
    let k := s.core c
    let x := k.atIssue.scl
    let a := sclAddr k x
    (x.op = 0x18 → k.rowPoisoned (a / 64) = false → k.rowErrs (a / 64) 2 = [] →
      ∃ t, exec (.sld c) s = .next t ∧ (∀ n, (t.core c).s n = k.s n) ∧
        t.coming c k 7 (.sreg x.rd (BitVec.ofNat 32 (mnum k.sp.mem a 4)))) ∧
    (x.op = 0x19 → ∃ t, exec (.sst c) s = .next t ∧ (∀ n, (t.core c).s n = k.s n) ∧
      t.coming c k 3 (.row 4 (a / 64) (wordBytes a (k.s x.rs2)) false))

/-! ### The vector slot -/

/-- Table 06-2, R134, R150: an element-wise operation of class E or F gives V[VD] its function of the operand lanes,
in the lanes that act, visible after its latency; the destination is poisoned by a poisoned source (R152). -/
def Obligations.vector_lanes : Prop :=
  ∀ row ∈ laneRows, ∀ (s : State) (c : Nat), s.issues c = true → (s.core c).atIssue.vec.vop = row.2.1 →
    let k := s.core c
    let x := k.atIssue.vec
    let y := vecArgs k x
    ∃ t lanes, exec (row.1 c) s = .next t ∧ t.coming c k row.2.2.1 (.vreg x.vd lanes y.poison (!x.men)) ∧
      lanes.length = 64 ∧
      ∀ l, l < 64 → lanes.getD l none =
        if (actMask k x).getLsbD l then
          some (row.2.2.2 (y.a.getD l 0#32) (y.b.getD l 0#32) (y.c.getD l 0#32))
        else none

/-- R141: a compare gives M[VD] one bit a lane, visible four cycles later, in the lanes that act. Table 06-2: the mask
operations give M[VD] their function of M[VA] and M[VB], or of two S registers, visible four cycles later. -/
def Obligations.vector_masks : Prop :=
  (∀ row ∈ compareRows, ∀ (s : State) (c : Nat), s.issues c = true → (s.core c).atIssue.vec.vop = row.2.1 →
    let k := s.core c
    let x := k.atIssue.vec
    let y := vecArgs k x
    ∃ t v, exec (row.1 c) s = .next t ∧ t.coming c k 4 (.mreg (x.vd % 8) (actMask k x) v y.poison (!x.men)) ∧
      ∀ l, l < 64 → v.getLsbD l = row.2.2 (y.a.getD l 0#32) (y.b.getD l 0#32)) ∧
  (∀ row ∈ maskRows, ∀ (s : State) (c : Nat), s.issues c = true → (s.core c).atIssue.vec.vop = row.2.1 →
    let k := s.core c
    let x := k.atIssue.vec
    ∃ t, exec (row.1 c) s = .next t ∧
      t.coming c k 4 (.mreg (x.vd % 8) (actMask k x)
        (row.2.2 (k.m (x.va % 8)) (k.m (x.vb % 8)) (k.s x.va) (k.s x.vb)) (vecArgs k x).poison (!x.men)))

/-- Table 06-2, R142, R146 to R149: VCVTFI rounds under its mode, VSEL picks by a mask, VRAND draws, VDROP keeps A
where the draw is below S[VB], VMXSC gives block exponents: the lanes of V[VD] that act, four cycles later. R143:
VSPLIT gives V[VD] the high and V[VD + 1] the low part of each lane of A, four cycles later. -/
def Obligations.vector_special_lanes : Prop :=
  (∀ (s : State) (c : Nat), s.issues c = true →
    let k := s.core c
    let x := k.atIssue.vec
    let y := vecArgs k x
    let gives (i : Instr) (f : Nat → Word) : Prop :=
      ∃ t lanes, exec i s = .next t ∧ t.coming c k 4 (.vreg x.vd lanes y.poison (!x.men)) ∧ lanes.length = 64 ∧
        ∀ l, l < 64 → lanes.getD l none = if (actMask k x).getLsbD l then some (f l) else none
    (x.vop = 0x0C → gives (.vcvtfi c) fun l => cvtFI (rndOf (bits x.vaux 5 4)) (y.a.getD l 0#32)) ∧
    (x.vop = 0x0E → gives (.vsel c) fun l =>
      if (k.m (x.vc % 8)).getLsbD l then y.a.getD l 0#32 else y.b.getD l 0#32) ∧
    (x.vop = 0x38 → gives (.vrand c) fun l => k.draw c k.pnl.step x l) ∧
    (x.vop = 0x39 → gives (.vdrop c) fun l =>
      if (k.draw c k.pnl.step x l).ult (k.s x.vb) then y.a.getD l 0#32 else 0#32) ∧
    (x.vop = 0x4D → gives (.vmxsc c) fun l =>
      mxExp (((vfmt x.fmt).bind fun z => z.emax).getD 0) (y.a.getD l 0#32))) ∧
  (∀ (s : State) (c : Nat), s.issues c = true → (s.core c).atIssue.vec.vop = 0x0D →
    let k := s.core c
    let x := k.atIssue.vec
    let y := vecArgs k x
    ∃ t hi lo, exec (.vsplit c) s = .next t ∧ t.coming c k 4 (.vreg x.vd hi y.poison (!x.men)) ∧
      t.coming c k 4 (.vreg (x.vd + 1) lo y.poison (!x.men)) ∧
      ∀ l, l < 64 →
        hi.getD l none = (if (actMask k x).getLsbD l then some (splitHi (y.a.getD l 0#32)) else none) ∧
        lo.getD l none = (if (actMask k x).getLsbD l then some (splitLo (y.a.getD l 0#32)) else none))

/-- R148: a reduction combines the lanes that act pairwise, the lower node left, over 64 lanes or, with SEG, over each
half; the result goes to lanes 0 and 32 of V[VD] after ten cycles, the other lanes +0, or with DS to S[VD] and S[VD +
1] after eleven. VMCNT counts the bits of M[VA] into S[VD] after three. No poisoned source. -/
def Obligations.vector_reductions : Prop :=
  ∀ (s : State) (c : Nat), s.issues c = true →
    let k := s.core c
    let x := k.atIssue.vec
    let y := vecArgs k x
    let act := actMask k x
    let seg := bit x.vaux 2
    (∀ row ∈ ([(.vrsum, 0x40), (.vrmax, 0x41), (.vrmin, 0x42), (.vrisum, 0x43)] : List ((Nat → Instr) × Nat)),
      x.vop = row.2 → y.poison = false →
      let r0 := reduceLanes x.vop act y.a 0 (if seg then 32 else 64)
      let r1 := reduceLanes x.vop act y.a 32 32
      ∃ t, exec (row.1 c) s = .next t ∧
        if bit x.vaux 1 then
          t.coming c k 11 (.sreg x.vd r0) ∧ (seg = true → t.coming c k 11 (.sreg (x.vd + 1) r1))
        else
          ∃ lanes, t.coming c k 10 (.vreg x.vd lanes false true) ∧
            ∀ l, l < 64 → lanes.getD l none = some (if l = 0 then r0 else if seg ∧ l = 32 then r1 else 0#32)) ∧
    (x.vop = 0x44 → y.poison = false →
      ∃ t, exec (.vmcnt c) s = .next t ∧
        t.coming c k 3 (.sreg x.vd (BitVec.ofNat 32 ((upto 64).countP fun i => (k.m (x.va % 8)).getLsbD i))))

/-- R145: VLD brings the elements of its row, and VLDSC 32 block scales of it, to the lanes of V[VD] that act, seven
cycles after issue. Lanes that the layout does not reach keep their contents. R134, R146, R147, R157: the stores write
their row, from the address that R144 gives, visible five cycles after issue; of a byte in which a lane is masked off
they write the bits of the others; VSTSC writes the biased exponent of each lane
that acts into its half of the row. -/
def Obligations.vector_memory : Prop :=
  (∀ (s : State) (c : Nat), s.issues c = true →
    let k := s.core c
    let x := k.atIssue.vec
    let row := (k.rowBits (vecRow k x)).toNat
    let g := bits x.vaux 5 4
    let w := ((vfmt x.fmt).map VFmt.w).getD 32
    (x.vop = 0x48 →
      ∃ t lanes p, exec (.vld c) s = .next t ∧
        t.coming c k 7 (.vreg x.vd lanes p (!x.men && lanes.all Option.isSome)) ∧
        ∀ l, l < 64 → lanes.getD l none =
          match ((laneMap x.fmt g (bit x.vaux 3)).getD []).find? fun q => q.1 == l with
          | some q =>
            if (actMask k x).getLsbD l then some (loadElem x.fmt (bits row (w * q.2 + w - 1) (w * q.2))) else none
          | none => none) ∧
    (x.vop = 0x49 →
      ∃ t lanes p, exec (.vldsc c) s = .next t ∧
        t.coming c k 7 (.vreg x.vd lanes p (!x.men && lanes.all Option.isSome)) ∧
        ∀ l, l < 64 → lanes.getD l none =
          let e := bits row (8 * (32 * g + l % 32) + 7) (8 * (32 * g + l % 32))
          if (actMask k x).getLsbD l then
            some (if e = 255 then nan32 else rne32 (.fin false 1 ((e : Int) - 127)))
          else none)) ∧
  (∀ (s : State) (c : Nat), s.issues c = true →
    let k := s.core c
    let x := k.atIssue.vec
    (∀ row ∈ ([(.vst, 0x4A), (.vstq, 0x4B)] : List ((Nat → Instr) × Nat)), x.vop = row.2 →
      let vm := storeBitsOf k c x
      ∃ t, exec (row.1 c) s = .next t ∧
        t.coming c k 5 (.row 1 (vecRow k x) (storeBytes vm.1 vm.2) (vecArgs k x).poison) ∧
        (storePart vm.1 vm.2 ≠ [] →
          t.coming c k 5 (.rowPart 1 (vecRow k x) (storePart vm.1 vm.2) (vecArgs k x).poison))) ∧
    (x.vop = 0x4C → ∃ t bytes, exec (.vstsc c) s = .next t ∧
      t.coming c k 5 (.row 1 (vecRow k x) bytes (vecArgs k x).poison) ∧
      ∀ i, i < 64 → bytes.getD i none =
        if i / 32 = bits x.vaux 4 4 ∧ (actMask k x).getLsbD (i % 32) then
          let v := (k.v x.va).getD (i % 32) 0#32
          some (if v = 128#32 then 255#8 else BitVec.ofInt 8 (v.toInt + 127))
        else none))

/-- R137, R138: an operation with FSRC pops one group of the head entry, which is FREE after group 15; VFTQDROP frees
the head entry at once. -/
def Obligations.queue_pops : Prop :=
  ∀ row ∈ rowsVec, ∀ (s : State) (c : Nat), s.issues c = true → (s.core c).atIssue.vec.vop = row.2 →
    let k := s.core c
    let x := k.atIssue.vec
    ∃ t, exec (row.1 c) s = .next t ∧
      (x.pops = true →
        if x.vop = 0x50 ∨ 15 ≤ k.ftqHead.group then
          (t.core c).mx.head = (k.mx.head + 1) % 4 ∧
            (k.mx.head < 4 → (aget FtqEntry.init (t.core c).mx.ftq k.mx.head).st = 0)
        else
          (t.core c).mx.head = k.mx.head ∧ (t.core c).ftqHead.group = k.ftqHead.group + 1) ∧
      (x.pops = false → (t.core c).mx.head = k.mx.head)

/-! ### The matrix slot -/

/-- R79, R82, R90, R91, R99: an MMA adds one product to bank BANK of each enabled array, from the operands as they
stand at issue, visible ten cycles later; with LAST the bank closes its open block and retires (R92). No other bank
changes. -/
def Obligations.matrix_product : Prop :=
  ∀ (s : State) (c : Nat) (tag : Tag), s.issues c = true → (s.core c).atIssue.mat.mop = 0x01 →
    tagOf (s.core c).atIssue.mat.fmt = some tag →
    let k := s.core c
    let x := k.atIssue.mat
    ∃ t, exec (.mma c) s = .next t ∧
      (∀ a, a < 2 → bit x.en a = true →
        let y := mmaReads s c x tag a
        let r := mmaSum k.accm x tag y (k.bank a x.bank) (k.latch a)
        let bad := r.1.poison || y.wp || y.ap || (x.srd && (y.arp || y.wcp))
        if x.last then
          ((t.core c).bank a x.bank).st = 2 ∧ ((t.core c).bank a x.bank).phase = 0 ∧
            ((t.core c).bank a x.bank).acc = (if r.1.phase = 0 then r.1 else r.1.close (32 - r.1.phase)).acc
        else
          (t.core c).bank a x.bank = { r.1 with poison := bad, vis := k.is.clk + 10 } ∧
            (t.core c).latch a = { r.2 with last := some k.is.clk }) ∧
      ∀ a n, a < 2 → n < 2 → ¬(bit x.en a = true ∧ n = x.bank) → (t.core c).bank a n = k.bank a n

/-- R119, R122 (and R121 by close16): the close of a block adds, in one rounding, the exact sum of the block's products
to the accumulator, scaled by both block scales, with the signs of zero of R120; INT8 and INT4 add modulo 2^32; BF16 and
FP16 close through the window.
An accumulator that took part in no product stays. A block that a product with INIT opens has the type of its tag, and
scales of 127 where the tag has none. -/
def Obligations.block_close : Prop :=
  (∀ (b : Bank) (pad i j : Nat), i < 32 → j < 32 →
    let ps := cellProducts b.opn i j
    let old := b.acc.getD (32 * i + j) 0#32
    let qs := ps ++ List.replicate pad (.fin false 0 0)
    let sw := b.sw.getD i 127
    let sa := b.sa.getD j 127
    (b.close pad).phase = 0 ∧ (b.close pad).opn = [] ∧
    ((b.close pad).acc.getD (32 * i + j) 0#32) =
      if ps = [] then old
      else if b.int then old + BitVec.ofInt 32 ((ps.map intOf).foldl (· + ·) 0)
      else if b.rank = 1 then close16 old qs
      else if sw = 255 ∨ sa = 255 then nan32
      else
        let z := fscale ((sw : Int) + sa - 254) (exactSum qs)
        let r := rne32 (fadd (dec32 old) z)
        if r = 0x80000000#32 ∧ ¬(old = 0x80000000#32 ∧ z.isNegZero = true) then 0#32 else r) ∧
  (∀ (tag : Tag) (x : MatSlot) (y : MmaIn) (b : Bank) (l : Latch), tagOf x.fmt = some tag → x.init = true →
    let r := (mmaSum false x tag y b l).1
    (r.int = true ↔ x.fmt = 0x6 ∨ x.fmt = 0xC) ∧ (r.rank = 1 ↔ x.fmt = 0x0 ∨ x.fmt = 0x1) ∧
      (tag.scaled = false → r.sw = List.replicate 32 127 ∧ r.sa = List.replicate 32 127) ∧
      r.acc = List.replicate 1024 0#32 ∧ r.opn.length = 1)

/-- R84, R85, R92 and Table 04-3: WLD brings row A of each enabled array to column WSA / 4 + a, visible seven cycles
later; MRET retires each enabled bank that is in ACCUM; MDROP makes each enabled bank IDLE with no open block. -/
def Obligations.matrix_moves : Prop :=
  ∀ (s : State) (c : Nat), s.issues c = true →
    let k := s.core c
    let x := k.atIssue.mat
    (x.mop = 0x04 → ∃ t, exec (.wld c) s = .next t ∧ (∀ a n, (t.core c).bank a n = k.bank a n) ∧
      ∀ a, a < 2 → bit x.en a = true → ∃ p, t.coming c k 7 (.wcol (x.wsa / 4 + a) (k.rowBits (x.row a)) p)) ∧
    (x.mop = 0x02 → ∃ t, exec (.mret c) s = .next t ∧ ∀ a n, a < 2 → n < 2 →
      if bit x.en a = true ∧ n = x.bank ∧ (k.bank a n).st = 1 then
        ((t.core c).bank a n).st = 2 ∧ ((t.core c).bank a n).phase = 0 ∧
          ∃ e, (⟨2 * a + n, e⟩ : Ret) ∈ (t.core c).mx.retq
      else (t.core c).bank a n = k.bank a n) ∧
    (x.mop = 0x03 → ∃ t, exec (.mdrop c) s = .next t ∧ ∀ a n, a < 2 → n < 2 →
      if bit x.en a = true ∧ n = x.bank then ((t.core c).bank a n).st = 0 ∧ ((t.core c).bank a n).opn = []
      else (t.core c).bank a n = k.bank a n)

/-! ### The local-memory and control slots -/

/-- R164, R165: LFILL, LCOPY and LSEG enter the engine's queue behind the operations in it, with the operands as they
stand at issue. R223, R224, R225: SGO starts its engine at instruction IMM with parameters S[SA] and S[SB], four
cycles later, where the program passes the check; SPLD reads four rows for a program; SSTOP makes a RUNNING engine
drain. R176 to R178: STLD reads the eight rows of a descriptor; STGO makes the sequencer the issue source, with its
first bundle four cycles after the registers are complete; STLDGO does both. -/
def Obligations.slot_starts : Prop :=
  (∀ row ∈ rowsLms, ∀ (s : State) (c : Nat), s.issues c = true → (s.core c).atIssue.lms.lop = row.2 →
    let k := s.core c
    let x := k.atIssue.lms
    let d := (k.s x.sd).toNat
    ∃ t op, exec (row.1 c) s = .next t ∧ (t.core c).lm = k.lm ++ [op] ∧ op.lop = row.2 ∧
      op.row = d % 16384 ∧ op.src = (k.s x.ss).toNat ∧ op.len = (if x.len = 0 then 256 else x.len) ∧
      op.dstr = x.dstr ∧ op.sstr = x.sstr ∧ op.sem = bits d 22 16 ∧ op.post = bit d 23 ∧ op.chk = k.atIssue.chkL ∧
      op.started = false ∧ op.rd = 0 ∧ op.wr = 0 ∧ op.visAt = none) ∧
  (∀ (s : State) (c : Nat), s.issues c = true →
    let k := s.core c
    let x := k.atIssue.ctl
    (x.cop = 0x01 → k.atIssue.mark = false → x.imm ≤ 31 → (∀ j, j < 32 → siOk (k.sInstr x.idx j) = true) →
      badHandles k x.idx = [] →
      ∃ t, exec (.sgo c) s = .next t ∧
        (t.core c).engine x.idx =
          { Engine.init with run := 1, pc := x.imm, ar := (k.engine x.idx).ar, p0 := (k.s x.sa).toNat,
                             p1 := (k.s x.sb).toNat, bucket := 256 * 8192, nextAt := s.cyc c + 4,
                             tstep := k.pnl.step, execs := (k.engine x.idx).execs }) ∧
    (x.cop = 0x02 → ∃ t, exec (.spld c) s = .next t ∧
      (t.core c).readers = k.readers ++ [⟨4, x.idx, (k.s x.sa).toNat % 16384, 4, false, [], 0, none⟩]) ∧
    (x.cop = 0x03 → ∃ t, exec (.sstop c) s = .next t ∧
      ((t.core c).engine x.idx).run =
        if (k.engine x.idx).run = 1 then (if k.tags x.idx = 0 then 0 else 2) else (k.engine x.idx).run)) ∧
  (∀ (s : State) (c : Nat), s.issues c = true →
    let k := s.core c
    let x := k.atIssue.ctl
    let row := (k.s x.sa).toNat % 16384
    let at4 := max (s.cyc c) k.stn.regsAt + 4
    (x.cop = 0x30 → ∃ t, exec (.stld c) s = .next t ∧ (t.core c).stn = k.stn ∧
      (t.core c).readers = k.readers ++ [⟨0, 0, row, 8, false, [], 0, none⟩]) ∧
    (x.cop = 0x31 → ∃ t, exec (.stgo c) s = .next t ∧ (t.core c).stn.active = true ∧
      (t.core c).stn.phase = (if k.readers.any (fun r => r.kind == 0) then 1 else 2) ∧
      (t.core c).stn.frontAt = at4 ∧ (t.core c).readers = markGo k.readers) ∧
    (x.cop = 0x32 → ∃ t, exec (.stldgo c) s = .next t ∧ (t.core c).stn.active = true ∧ (t.core c).stn.phase = 1 ∧
      (t.core c).stn.frontAt = at4 ∧ (t.core c).readers = k.readers ++ [⟨0, 0, row, 8, true, [], 0, none⟩]))

/-- R269, R270: Q.SEND takes a credit and puts the message on the lath; Q.RECV takes the head message from its slot,
brings its words, and 0 for words beyond it, to S[SA] on, and returns the credit. R275, R277: MB.SEND takes the bytes
of its record, and of the PAD before it, from the route's credit, and moves its write offset and sequence number;
MB.FREE moves the ring's read offset and returns the bytes to the route. -/
def Obligations.queues_and_mailboxes : Prop :=
  (∀ (s : State) (c : Nat), s.issues c = true →
    let k := s.core c
    let x := k.atIssue.ctl
    let cfg := k.rtCfg x.idx
    (x.cop = 0x10 → ∃ t n, exec (.qSend c) s = .next t ∧
      ((t.core c).route x.idx).credit = (k.route x.idx).credit - 1 ∧
      LathMsg.msg c (rtCore cfg) (rtQueue cfg) ((upto x.words).map fun j => k.s (x.sa + j)) n ∈ t.lath) ∧
    (x.cop = 0x11 → ∀ w rest d r, (k.queue x.idx).msgs = w :: rest → (k.queue x.idx).src = some (d, r) →
      ∃ t, exec (.qRecv c) s = .next t ∧ ((t.core c).queue x.idx).msgs = rest ∧
        ((t.core c).queue x.idx).head = ((k.queue x.idx).head + 1) % 32 ∧ LathMsg.credit d r ∈ t.lath ∧
        ∀ j, j < x.words → t.coming c k 2 (.sreg (x.sa + j) (w.getD j 0#32)))) ∧
  (∀ (s : State) (c : Nat), s.issues c = true →
    let k := s.core c
    let x := k.atIssue.ctl
    let ring := rtRing (k.rtCfg x.idx)
    let r := k.route x.idx
    let need := 16 + 16 * bits x.imm 3 0
    let pad := if ring < r.woff + need then ring - r.woff else 0
    (x.cop = 0x14 → ∃ t, exec (.mbSend c) s = .next t ∧
      (t.core c).route x.idx =
        { r with credit := r.credit - (pad + need), woff := ((if pad = 0 then r.woff else 0) + need) % ring,
                 seq := ((if pad = 0 then r.seq else r.seq + 1) + 1) % 2 ^ 32 } ∧
      (bits x.imm 3 0 ≠ 0 → ∃ m ∈ (t.core c).mbOut, m.route = x.idx ∧ m.row = (k.s x.sa).toNat % 16384 ∧
        m.n = bits x.imm 3 0 ∧ m.woff = (if pad = 0 then r.woff else 0) ∧ m.got = [])) ∧
    (x.cop = 0x15 → ∃ t, exec (.mbFree c) s = .next t ∧
      let n := freeAmount k x
      let m := k.mbx x.idx
      let cfg := k.mbxCfg x.idx
      ((t.core c).mbx x.idx).landed = m.landed - n ∧
      ((t.core c).mbx x.idx).roff = (m.roff + n) % (64 * max 1 (mbRows cfg)) ∧
      (mbCoord cfg = s.fab.coord → LathMsg.mbCredit (mbCore cfg) (mbRoute cfg) n ∈ t.lath)))

/-- R255, R257, R262: a semaphore wait that issues has been released and is over. An unfenced update of an empty sync
port goes to the home of its semaphore, with the amount SEM.SUB negates. -/
def Obligations.semaphore_operations : Prop :=
  ∀ (s : State) (c : Nat), s.issues c = true →
    let k := s.core c
    let x := k.atIssue.ctl
    let a := semAddr k s.fab.coord c x
    (x.cop = 0x18 → released k.is.wait = true ∧ ∃ t, exec (.semWait c) s = .next t ∧ (t.core c).is.wait = none) ∧
    (x.cop = 0x19 → released k.is.wait = true ∧ ∃ t, exec (.semWsub c) s = .next t ∧ (t.core c).is.wait = none) ∧
    ∀ row ∈ ([(.semAdd, 0x1A, 1), (.semSub, 0x1B, -1)] : List ((Nat → Instr) × Nat × Int)),
      x.cop = row.2.1 → x.fence = false → k.sync = [] → gaCoord a = s.fab.coord → ∀ p, semPlace (gaOff a) = some p →
        ∃ t n, exec (row.1 c) s = .next t ∧ (t.core c).sync = [] ∧
          (⟨c, 8, none, gaOff a, 0, row.2.2 * semCount k x, 0, n⟩ : SemMsg) ∈ aget [] t.semIn p

/-! ### A bundle that does not issue -/

/-- R61, R72, Table 03-15: a bundle that an interlock holds does not issue; the cycle counts under the lowest cause
that holds it. R64: a bundle that loses a bank port freezes the pipeline for the cycle: it does not issue, each of its
requests that lost counts, and the cycle counts under OTHER. -/
def Obligations.bundle_not_issued : Prop :=
  (∀ row ∈ bundleRows, ∀ (s : State) (c q : Nat),
    let k := s.core c
    c < nCores → s.ctl.st = stRunning → k.mayIssue = true → k.stn.active = false → row.2 k.atIssue = true →
    holdCause k s.fab.coord c (s.cyc c) k.atIssue k.bundleIndex = some q →
      ∃ t, exec (row.1 c) s = .next t ∧ (t.core c).is.next = k.is.next ∧ (t.core c).is.tried = true ∧
        (t.core c).reg (rStall q) = satAdd 32 (k.reg (rStall q)) 1 ∧ (t.core c).sc = k.sc ∧ (t.core c).ve = k.ve ∧
        (t.core c).mx = k.mx ∧ (t.core c).inflight = k.inflight) ∧
  (∀ row ∈ bundleRows, ∀ (s : State) (c : Nat),
    let k := s.core c
    let p := tryPorts k k.atIssue (s.cyc c)
    c < nCores → s.ctl.st = stRunning → k.mayIssue = true → k.stn.active = false → row.2 k.atIssue = true →
    holdCause k s.fab.coord c (s.cyc c) k.atIssue k.bundleIndex = none →
    bundleViols k s.fab.coord c (s.cyc c) k.atIssue k.bundleIndex = [] → p.lost ≠ [] →
      ∃ t, exec (row.1 c) s = .next t ∧ (t.core c).is.next = k.is.next ∧ (t.core c).is.frozen = true ∧
        (t.core c).reg rCollide = satAdd 32 (k.reg rCollide) p.lost.length ∧
        (t.core c).reg (rStall 7) = satAdd 32 (k.reg (rStall 7)) 1 ∧ (t.core c).sc = k.sc ∧ (t.core c).ve = k.ve ∧
        (t.core c).mx = k.mx ∧ (t.core c).sp = k.sp ∧ (t.core c).inflight.map (·.eff) = k.inflight.map (·.eff))

/-- R67, R68, R284, R372: a bundle that breaks a rule does not execute and stops its core; the first violation, of the
lowest slot, is logged where the fault registers were clear, and the job fault is raised; over a fault of the same cycle
with a higher reason it takes that one's place. -/
def Obligations.bundle_violation : Prop :=
  ∀ row ∈ bundleRows, ∀ (s : State) (c : Nat) (v : Viol) (vs : List Viol),
    let k := s.core c
    c < nCores → s.ctl.st = stRunning → k.mayIssue = true → k.stn.active = false → row.2 k.atIssue = true →
    holdCause k s.fab.coord c (s.cyc c) k.atIssue k.bundleIndex = none →
    bundleViols k s.fab.coord c (s.cyc c) k.atIssue k.bundleIndex = v :: vs →
      ∃ t, exec (row.1 c) s = .next t ∧ (t.core c).is.stopped = true ∧ (t.core c).is.next = k.is.next ∧
        (t.core c).sc = k.sc ∧ (t.core c).ve = k.ve ∧ (t.core c).mx = k.mx ∧ (t.core c).sp = k.sp ∧
        (∀ e ∈ k.inflight, e ∈ (t.core c).inflight) ∧
        t.ctl.fault = some (match s.ctl.fault with
          | some f =>
            if 4 < f.reason ∧ f.origin = s.fab.coord ∧ f.sameCycle s.scr.ns (some (bayOf c, s.cyc c)) = true then
              { f with reason := 4, core := c, addr := v.addr }
            else f
          | none => ⟨4, s.fab.coord, c, v.addr, s.scr.ns, some (bayOf c, s.cyc c)⟩) ∧
        (bit (k.reg rFaultInfo) 8 = false →
          bits ((t.core c).reg rFaultInfo) 8 0 = 256 + v.code % 256 ∧
          bits ((t.core c).reg rFaultInfo) 12 10 = v.slot % 8 ∧
          bits ((t.core c).reg rFaultInfo) 23 13 = k.bundleIndex % 2048 ∧
          (t.core c).reg rFaultAddr = v.addr % 2 ^ 32)

/-- R30, R31, R35: with the marked bundle, where no operation of it faults, the panel ends: the walk goes on past the
WRAPs to the next descriptor, an owed post joins the list, and the core waits for its start, has ended at END, or halts
where the halt has reached it. R33: where POST_H does not resolve to a semaphore the core stops in its panel. MODEL'S
CHOICE: that the marked bundle's slots have run then, and that its index is logged (log entry 105). -/
def Obligations.panel_end : Prop :=
  ∀ (s : State) (c : Nat), s.issues c = true → (s.core c).atIssue.mark = true →
    ((s.slotsRun c).core c).is.stopped = false →
    let k := s.core c
    let p := k.pnl
    let d := k.pdesc p.index
    let w := walk k 600 (p.index + 1) p.base p.wraps
    ((pdPost d = true → k.panelHandle (pdPostH d) true = true) →
      ∃ t n, exec (.panelEnd c) s = .next t ∧
        let q := (t.core c).pnl
        q.index = min w.1 255 ∧ q.base = w.2.1 ∧ q.wraps = w.2.2 ∧ q.prevEnd = s.scr.now ∧
        q.step = (if pdStep d then min (p.step + 1) (2 ^ 48 - 1) else p.step) ∧
        q.phase = (if pdKind (k.pdescOr w.1) = 0 then 3 else if k.halted then 4 else 1) ∧
        q.posts = (if pdPost d then p.posts ++ [⟨k.htAddr (pdPostH d), n⟩] else p.posts)) ∧
    (pdPost d = true → k.panelHandle (pdPostH d) true = false →
      ∃ t, exec (.panelEnd c) s = .next t ∧ (t.core c).is.stopped = true ∧ (t.core c).pnl = p ∧
        (bit (k.reg rFaultInfo) 8 = false → bits ((t.core c).reg rFaultInfo) 8 0 = 256 + 0x12 ∧
          bits ((t.core c).reg rFaultInfo) 23 13 = k.bundleIndex % 2048))

/-! ### The control port -/

/-- R405, R406, R398, R408, R415: a frame on an untrained link does nothing; one whose CRC fails, or which fails the
session check, is counted and dropped; one behind waiting requests waits, a 33rd is counted and dropped; one that is first
waits for the end of a march or of its memory accesses; an illegal or malformed one is counted, recorded and answered
IGNORED, and changes nothing else. Every control command. Table 18-6: each command is legal in
exactly its states. R408: a frame with a CMD that Table 18-3 does not list is answered IGNORED. -/
def Obligations.control_port_checks : Prop :=
  (∀ row ∈ frameRows, ∀ (s : State) (f : Frame),
    (s.clocked = false ∨ s.ctl.lanes ≠ 15 → exec (row.1 f) s = .next s) ∧
    (s.clocked = true → s.ctl.lanes = 15 → f.crcOk = false → exec (row.1 f) s = .next (s.bumpD 0x600008)) ∧
    (s.hears f = true → s.sessionOk row.2 f = false →
      exec (row.1 f) s = .next ((s.bumpD 0x600008).bumpD 0x500010)) ∧
    (s.hears f = true → s.sessionOk row.2 f = true →
      let u := s.useCounter f
      let v := s.asks row.2 f
      (s.ctl.q ≠ [] → exec (row.1 f) s = .next (if s.ctl.q.length < 32 then
        { u with ctl := { u.ctl with q := s.ctl.q ++ [(row.2, f)] } } else u.bumpD 0x60000C)) ∧
      (s.ctl.q = [] → v.stillHeld row.2 = true → exec (row.1 f) s = .next v) ∧
      (∀ t, s.portIdle = true → v.stillHeld row.2 = false → v.beginAccess row.2 f = some t →
        exec (row.1 f) s = .next t)) ∧
    (s.hears f = true → s.sessionOk row.2 f = true → s.portIdle = true → (s.asks row.2 f).stillHeld row.2 = false →
      (s.legal row.2 f.first && s.formed row.2 f) = false →
      ∃ t, exec (row.1 f) s = .next t ∧ t.out = s.out ++ [replyOf row.2 f 2 0 0 []] ∧ t.ctl = s.ctl ∧
        t = { s with out := t.out, dregs := t.dregs, er := t.er, sec := t.sec } ∧
        t.dreg 0x600004 = satAdd 32 (s.dreg 0x600004) 1 ∧
        ∃ e ∈ t.er.q, e.code = evCmdIgnored ∧ e.payload = [row.2 + (f.tag % 65536) <<< 8 + s.ctl.st <<< 24])) ∧
  (∀ (s : State) (first : Bool),
    let st := s.ctl.st
    let faulted := st = stFaulted ∧ s.ctl.bootFail = false
    (∀ cmd ∈ [0x01, 0x09, 0x0D], s.legal cmd first = true) ∧
    (∀ cmd ∈ [0x02, 0x03, 0x04, 0x0A, 0x0B, 0x0C, 0x0E], st ≤ stFaulted → (st < stFaulted → s.ctl.bootFail = false) →
      (s.legal cmd first = true ↔ st = stIdle ∨ st = stLoaded ∨ st = stRunning ∨ st = stHalted ∨ faulted)) ∧
    (s.legal 0x05 true = true ↔ st = stIdle ∨ st = stLoaded ∨ st = stHalted ∨ faulted) ∧
    (s.legal 0x05 false = true ↔ st = stLoaded ∧ s.ctl.img = 1) ∧
    (s.legal 0x06 first = true ↔ st = stLoaded ∧ s.ctl.img = 2) ∧
    ∀ cmd ∈ [0x07, 0x08], s.legal cmd first = true ↔ st = stRunning) ∧
  (∀ (s : State) (cmd : Nat) (f : Frame), s.hears f = true → s.sessionOk (cmd % 256) f = true →
    s.portIdle = true → (cmd % 256 = 0 ∨ 0x0E < cmd % 256) →
      ∃ t, exec (.illegalCommand cmd f) s = .next t ∧ t.out = s.out ++ [replyOf (cmd % 256) f 2 0 0 []] ∧
        t.ctl = s.ctl ∧ t.cores = s.cores ∧ t.mem = s.mem ∧ t.sem = s.sem)

/-- R400, R410, R417, R422: IDENT, STATUS and READREC answer with their payload, and ATTEST with the 408 signed bytes
of the report and its signature, where the identity key exists; none of them changes a core, a memory or the control
state. -/
def Obligations.control_queries : Prop :=
  ∀ (s : State) (f : Frame),
    let u := s.counted f
    let answers (i : Instr) (cmd status arg1 : Nat) (bs : List Byte) : Prop :=
      ∃ t, exec i s = .next t ∧ t.out = s.out ++ [replyOf cmd f status 0 arg1 bs] ∧ t.ctl = s.ctl ∧ t.cores = s.cores ∧
        t.dflt = s.dflt ∧ t.mem = s.mem ∧ t.sem = s.sem ∧ t.er = s.er
    (s.takes 0x01 f = true → answers (.ident f) 0x01 0 0 s.identBytes) ∧
    (s.takes 0x09 f = true → answers (.status f) 0x09 0 0 (toBytes 64 u.statusWord)) ∧
    (s.takes 0x0D f = true →
      if f.arg0 + f.arg1 ≤ 0x400000 then answers (.readrec f) 0x0D 0 0 (s.er.bytes f.arg0 f.arg1)
      else answers (.readrec f) 0x0D 4 1 []) ∧
    (s.takes 0x02 f = true → s.sec.idk = true →
      let r := toBytes 408 ((u.bumpD 0x50000C).report f.payload)
      answers (.attest f) 0x02 0 0 (r ++ toBytes 64 (Config.signature 0 (Config.digest r)).toNat))

/-- R410, R290, R297, R370: READ answers with the bytes of its space: semaphores, the recorder, registers, a line of
HBM or DDR5 with the poison indication; an address that its space does not have is an error response. R171: a READ of
scratchpads begins with its first row; each row is read where the port of its bank is free, and its bytes and its poison
join what has been read. MODEL'S CHOICE: that these reads stand before the scrubber's own (log entry 111). -/
def Obligations.control_read : Prop :=
  (∀ (s : State) (f : Frame), s.hears f = true → s.sessionOk 0x03 f = true → s.portIdle = true →
    s.legal 0x03 f.first = true → s.formed 0x03 f = true → gaSpace f.arg0 = spSp → s.spaceFault f.arg0 f.arg1 = none →
    let u := s.asks 0x03 f
    exec (.read f) s = .next { u with ctl := { u.ctl with sp := some ⟨gaOff f.arg0, f.arg1, [], none⟩ } }) ∧
  (∀ (s : State) (c row : Nat) (r : SpRead), s.portRowOf c = some (r, row) →
    (s.core c).portTaken false row = false →
    let k := s.core c
    let m := min r.left (64 - r.x % 64)
    (s.portRow c).ctl.sp = some ⟨r.x + m, r.left - m,
      r.got ++ ((toBytes 64 (k.rowBits row).toNat).drop (r.x % 64)).take m,
      if k.rowPoisoned row || !(k.rowErrs row 2).isEmpty then some (r.bad.getD r.got.length) else r.bad⟩ ∧
    ∀ d, ((s.portRow c).core d).sp = (s.core d).sp) ∧
  ∀ (s : State) (f : Frame), s.takes 0x03 f = true →
    let a := f.arg0
    let n := f.arg1
    let x := gaOff a
    let answers (status arg0 arg1 : Nat) (bs : List Byte) : Prop :=
      ∃ t, exec (.read f) s = .next t ∧ t.out = s.out ++ [replyOf 0x03 f status arg0 arg1 bs] ∧ t.ctl = s.ctl ∧
        t.mem = s.mem ∧ t.sem = s.sem ∧ ∀ c, (t.core c).sp = (s.core c).sp
    (∀ code, s.spaceFault a n = some code → answers 4 0 code []) ∧
    (s.spaceFault a n = none → gaSpace a = spSync →
      answers 0 0 0 ((upto (n / 4)).flatMap fun i => toBytes 4 (s.semVal (x + 4 * i)).toNat)) ∧
    (s.spaceFault a n = none → gaSpace a = spRec → answers 0 0 0 (s.er.bytes x n)) ∧
    (s.spaceFault a n = none → gaSpace a = spMmio → (x + n ≤ 0x10500480 ∨ 0x1050049C < x) →
      ∀ bs, (s.counted f).readRegs x n = some bs → answers 0 0 0 bs) ∧
    (s.spaceFault a n = none → (gaSpace a = spHbm ∨ gaSpace a = spDdr) → x % 512 + n ≤ 512 → f.ecc = [] →
      answers (if (s.lineAt a).2 then 1 else 0) 0 0 (((s.lineAt a).1.drop (x % 512)).take n))

/-- R410, R290, R254: WRITE changes the bytes that it names and no others: a semaphore and scratchpad bytes in IDLE,
LOADED and HALTED, HBM bytes in every state; SP and SYNC are refused with STATE otherwise. -/
def Obligations.control_write : Prop :=
  ∀ (s : State) (f : Frame), s.takes 0x04 f = true → s.spaceFault f.arg0 f.payload.length = none → f.payload ≠ [] →
    let a := f.arg0
    let x := gaOff a
    let bs := f.payload
    let tells (t : State) (status code : Nat) : Prop := t.out = s.out ++ [replyOf 0x04 f status 0 code []] ∧ t.ctl = s.ctl
    (gaSpace a = spSync → bs.length = 4 → s.writable = true →
      ∃ t, exec (.write f) s = .next t ∧ tells t 0 0 ∧ t.mem = s.mem ∧ t.cores = s.cores ∧
        ∀ o, t.semVal o = if o = x then BitVec.ofNat 32 (ofBytes bs) else s.semVal o) ∧
    (gaSpace a = spSp → x % 64 + bs.length ≤ 64 → s.writable = true →
      ∃ t, exec (.write f) s = .next t ∧ tells t 0 0 ∧ t.mem = s.mem ∧ t.sem = s.sem ∧
        ∀ c i, mget (t.core c).sp.mem i =
          if c = x >>> 20 ∧ x % 2 ^ 20 ≤ i ∧ i < x % 2 ^ 20 + bs.length then bs.getD (i - x % 2 ^ 20) 0#8
          else mget (s.core c).sp.mem i) ∧
    (gaSpace a = spSp ∨ gaSpace a = spSync → s.writable = false →
      ∃ t, exec (.write f) s = .next t ∧ tells t 4 3 ∧ t.mem = s.mem ∧ t.sem = s.sem ∧
        ∀ c, (t.core c).sp = (s.core c).sp) ∧
    (gaSpace a = spHbm → x % 512 + bs.length ≤ 512 → f.ecc = [] → s.stackOut a = false →
      ∃ t, exec (.write f) s = .next t ∧ tells t 0 0 ∧ t.cores = s.cores ∧ t.sem = s.sem ∧ t.mem.ddr = s.mem.ddr ∧
        let lo := 512 * s.hbmLineOf a + x % 512
        ∀ i, mget t.mem.hbm i = if lo ≤ i ∧ i < lo + bs.length then bs.getD (i - lo) 0#8 else mget s.mem.hbm i)

/-- R411, R396: the first LOAD frame of an image without an envelope, whose chunks are all accepted, makes the device
LOADED; with LAST and no chunk cut off the image is accepted. A device that asks for signed images refuses it with
check 3 and is IDLE. R416, R23, R268, R50: START enters RUNNING with its epoch, each core waiting for the start of
descriptor 0 with CORE_ENTRY as its next bundle; where a check fails it is refused, the reason is kept and the state
stays. MODEL'S CHOICE: the number of the check (log entry 82). -/
def Obligations.control_load_and_start : Prop :=
  (∀ (s : State) (f : Frame), s.takes 0x05 f = true → f.first = true → hasMagic f.payload = false →
    s.sec.idk = true → s.sec.dtk = true →
    let u := (s.counted f).loadBegin (newImage f.payload)
    let r := writeChunks (f.payload.length / 16 + 1) u f.payload f.image
    (s.sec.reqSigned = false → r.2.2 = false →
      ∃ t, exec (.load f) s = .next t ∧
        (f.last = false → t.ctl.st = stLoaded ∧ t.ctl.img = 1 ∧
          t.ctl.nextSeg = (f.payload.length + 65535) / 65536) ∧
        (f.last = true → r.2.1 = [] → t.ctl.st = stLoaded ∧ t.ctl.img = 2 ∧ t.ctl.image = none ∧
          t.sec.jobKey = false ∧ t.sec.jobSigned = false)) ∧
    (s.sec.reqSigned = true → ∃ t, exec (.load f) s = .next t ∧ t.ctl.st = stIdle ∧ t.ctl.img = 0 ∧
      t.sec.jobKey = false ∧ t.sec.partKey = false ∧ replyOf 0x05 f 5 0 3 [] ∈ t.out)) ∧
  (∀ (s : State) (f : Frame), s.takes 0x06 f = true →
    (s.startFault = none → ∃ t, exec (.start f) s = .next t ∧ t.ctl.st = stRunning ∧
      t.dreg64 0x1008 = f.arg0 % 2 ^ 64 ∧
      ∀ c, c < nCores → (t.core c).pnl.index = 0 ∧ (t.core c).pnl.phase = 1 ∧
        (t.core c).pnl.step = (s.core c).pnl.step ∧ (t.core c).is.next = (s.core c).reg rCoreEntry ∧
        (t.core c).halted = false ∧ (t.core c).ve = (s.core c).ve ∧ (t.core c).sp = (s.core c).sp) ∧
    ∀ code c i, s.startFault = some (code, c, i) → ∃ t, exec (.start f) s = .next t ∧ t.ctl.st = s.ctl.st ∧
      t.ctl.refuse = code ∧ t.ctl.rcore = c ∧ t.ctl.rindex = i ∧ t.cores = s.cores ∧
      t.out = s.out ++ [replyOf 0x06 f 3 0 code []])

/-- R412, R35, R361, R421, R436: STOP stops every core and its engines and withdraws their waits; HALT raises the
halt; SETCAP sets the cap and every bay's ceiling; FREEZE and UNFREEZE stop and resume the recorder; RESET clears the
semaphores, the session and the image and boots again. MODEL'S CHOICE: what STOP ends at once (log entry 47). -/
def Obligations.control_settings : Prop :=
  ∀ (s : State) (f : Frame),
    (s.takes 0x07 f = true → ∃ t, exec (.stop f) s = .next t ∧ t.ctl.st = stRunning ∧ t.ctl.halt = true ∧
      t.ctl.haltBy = 2 ∧
      (∀ c, (t.core c).is.stopped = true ∧ (t.core c).is.wait = none ∧ (t.core c).pnl.wait = none ∧
        (t.core c).stn.wait = none) ∧
      ∀ c ∈ s.cores.map (·.1), ∀ n, n < 4 → ((t.core c).engine n).run ≠ 1) ∧
    (s.takes 0x08 f = true → ∃ t, exec (.halt f) s = .next t ∧ t.cores = s.cores ∧ t.dflt = s.dflt ∧
      t.ctl = { s.ctl with halt := true, haltBy := if s.ctl.haltBy == 2 then 2 else 1 }) ∧
    (s.takes 0x0A f = true → ∃ t, exec (.setcap f) s = .next t ∧ t.dreg 0x300000 = f.arg1 ∧
      (∀ b, b < 32 → (t.bay b).ceil = (100 * f.arg1 + 750) * 1000 / 640 / 10 * 10 ∧ (t.bay b).step = (s.bay b).step) ∧
      t.cores = s.cores ∧ t.ctl = s.ctl) ∧
    (s.takes 0x0C f = true → ∃ t, exec (.freeze f) s = .next t ∧ t.er = { s.er with frozen := true } ∧
      t.cores = s.cores ∧ t.ctl = s.ctl) ∧
    (s.takes 0x0E f = true → ∃ t, exec (.unfreeze f) s = .next t ∧ t.er.frozen = false ∧
      (f.arg1 % 2 = 1 → t.er.wptr = 0 ∧ t.er.records = 0 ∧ t.er.full = false) ∧
      (f.arg1 % 2 = 0 → t.er = { s.er with frozen := false }) ∧ t.cores = s.cores ∧ t.ctl = s.ctl) ∧
    (s.takes 0x0B f = true → s.pat.env.isSome = true → ∃ t, exec (.reset f) s = .next t ∧
      replyOf 0x0B f 0 0 0 [] ∈ t.out ∧ t.sem = [] ∧ t.sec.session = none ∧ t.ctl.img = 0 ∧ t.ctl.bootCause = 1 ∧
      (t.ctl.st = stBooting ∨ t.ctl.st = stIdle ∨ t.ctl.st = stFaulted))

/-! ### Registers -/

/-- R9, R41, R71, R99, R154, R175, R207, R213, R251, R279: a write of a core's clearing register sets the counters of
its bits to 0, and, with bit 2 of CORE_CLEAR, the peak of CORE_TOK; nothing else changes. -/
def Obligations.core_clears : Prop :=
  ∀ row ∈ coreClears, ∀ (s : State) (c : Nat) (v : Word), s.portOpen = true → c < nCores →
    ∃ t regs, exec (row.1 c v) s = .next t ∧ t = s.setCore c { s.core c with regs := regs } ∧
      ∀ off, (t.core c).reg off =
        if clearsAt row.2 v.toNat off then 0
        else if off = 0x20 ∧ row.1 c v = .coreClear c v ∧ bit v.toNat 2 = true then (s.core c).reg 0x20 % 65536
        else (s.core c).reg off

/-- R9, R24, R318, R353, R368, R386, R404, R425: a write of a clearing register of the device window sets the counters
of its bits to 0; the peaks that further bits of FAB_CLEAR, GOV_CLEAR and ACG_CLEAR clear start again; no core, memory
or semaphore changes. R353, R9, R24, R68, R318: FAB_PORT_CLEAR clears the counters of its port; a 1 written to VALID
of CORE_FAULT_INFO clears it with OVF, to ALIGN_ERR of SCR_STATUS and to ERR of SEQ_STATUS clears that bit. -/
def Obligations.device_clears : Prop :=
  (∀ row ∈ deviceClears, ∀ (s : State) (v : Word), s.portOpen = true →
    ∃ t, exec (row.1 v) s = .next t ∧ t.cores = s.cores ∧ t.mem = s.mem ∧ t.sem = s.sem ∧ t.ctl = s.ctl ∧ t.sec = s.sec ∧
      t.out = s.out ∧
      (∀ off, t.dreg off =
        if clearsAt row.2 v.toNat off then 0
        else if off = 0x30000C ∧ row.1 v = .govClear v ∧ bit v.toNat 2 = true then s.dreg 0x30000C % 65536
        else s.dreg off) ∧
      t.fab = (if row.1 v = .fabClear v ∧ bit v.toNat 6 = true then { s.fab with inbPeak := s.fab.inb } else s.fab) ∧
      (row.1 v = .acgClear v → ∀ r, (t.region r).mhz = (s.region r).mhz ∧
        (t.region r).fmin = (if bit v.toNat 0 then 0xFFFF else (s.region r).fmin) ∧
        (t.region r).margin = if bit v.toNat 2 then 0xFFFF else (s.region r).margin)) ∧
  (∀ (s : State) (v : Word), s.portOpen = true →
    (∀ p, p < 13 → ∃ t, exec (.fabPortClear p v) s = .next t ∧ t.cores = s.cores ∧ t.fab = s.fab ∧ ∀ off, t.dreg off =
      if clearsAt [(0, 0x20100C + 0x40 * p), (1, 0x201010 + 0x40 * p), (2, 0x201014 + 0x40 * p), (3, 0x201018 + 0x40 * p),
          (4, 0x201020 + 0x40 * p), (4, 0x201024 + 0x40 * p), (5, 0x201028 + 0x40 * p), (5, 0x20102C + 0x40 * p)]
          v.toNat off then 0 else s.dreg off) ∧
    (∀ c, c < nCores → ∃ t, exec (.coreFaultInfo c v) s = .next t ∧
      (bit v.toNat 8 = true → bits ((t.core c).reg 0x18) 9 8 = 0) ∧
      (bit v.toNat 8 = false → bit ((t.core c).reg 0x18) 8 = bit ((s.core c).reg 0x18) 8) ∧
      ∀ off, off ≠ 0x18 → (t.core c).reg off = (s.core c).reg off) ∧
    (∃ t, exec (.scrStatus v) s = .next t ∧
      t = { s with scr := { s.scr with alignErr := s.scr.alignErr && !bit v.toNat 1 } }) ∧
    (∃ t, exec (.seqStatus v) s = .next t ∧ t.cores = s.cores ∧ t.expand = s.expand ∧
      ∀ off, t.dreg off = if off = 0x30018 ∧ bit v.toNat 1 = true then 0 else s.dreg off))

/-- R9, R20, R71, Table 18-6: a register write acts when the device carries the port: a state-limited field of a core
takes its value in IDLE, LOADED and HALTED and is refused with STATE otherwise, counted and logged with its offset; an
address that is not aligned, or that no chapter defines, is an error response. R438: a core reset clears the registers,
engines, queue and effects under way of the core, closes its queues and keeps its bundle memory; in a state that does
not allow it the write is refused with STATE. MODEL'S CHOICE: that a core reset clears the VE_ counters (log entry 48),
and the slot of a refused write (log entry 112). -/
def Obligations.register_writes : Prop :=
  let refused (s : State) (c off : Nat) : State :=
    s.modCore c fun k => (k.bump 0x24).logFault (s.cyc c) 0x35 6 k.bundleIndex off
  (∀ (s : State) (off : Nat) (v : Word),
    (s.portOpen = false → exec (.registerWrite off v) s = .next s) ∧
    (s.portOpen = true → off % 4 ≠ 0 →
      exec (.registerWrite off v) s = .next (s.send (.error 5 (s.mmioAddr off)))) ∧
    (s.portOpen = true → off % 4 = 0 → s.mmioWord off = none →
      exec (.registerWrite off v) s = .next (s.send (.error 1 (s.mmioAddr off)))) ∧
    (s.portOpen = true → s.writable = true → ∀ c i, c < nCores → i < 32 → off = 0x10000 * c + 0x100 + 4 * i →
      ∃ t, exec (.registerWrite off v) s = .next t ∧
        ∀ d j, (t.core d).s j = if d = c ∧ j = i ∧ i ≠ 0 then v else (s.core d).s j) ∧
    (s.portOpen = true → s.writable = true → ∀ c i, c < nCores → i < 128 → off = 0x10000 * c + 0x7000 + 4 * i →
      exec (.registerWrite off v) s = .next (s.setSem (0x200 * c + 4 * i) v)) ∧
    (s.portOpen = true → s.writable = false → ∀ c i, c < nCores → i < 32 → off = 0x10000 * c + 0x100 + 4 * i →
      exec (.registerWrite off v) s = .next ((refused s c off).send (.error 3 (s.mmioAddr off)))) ∧
    (s.portOpen = true → s.writable = true → off = 0x10000000 + 0x1100 →
      exec (.registerWrite off v) s = .next (s.setDreg 0x1100 v.toNat))) ∧
  (∀ (s : State) (c : Nat), s.portOpen = true → c < nCores →
    (s.writable = true ∨ s.ctl.st = stFaulted →
      ∃ t, exec (.coreReset c) s = .next t ∧ (∀ n, (t.core c).s n = 0#32) ∧ (∀ r l, ((t.core c).v r).getD l 0#32 = 0#32) ∧
        (∀ r, (t.core c).m r = 0#64) ∧ (∀ n, ((t.core c).engine n).run = 0) ∧ (t.core c).lm = [] ∧
        (t.core c).inflight = [] ∧ (t.core c).lines = [] ∧ (t.core c).is.stopped = false ∧
        (t.core c).stn = Stencil.init ∧ (t.core c).bm = (s.core c).bm ∧
        (∀ q, q < 8 → ((t.core c).queue q).closed = true) ∧ t.ctl = s.ctl ∧
        ∀ d, d ≠ c → (t.core d).sc = (s.core d).sc ∧ (t.core d).ve = (s.core d).ve) ∧
    (s.writable = false → s.ctl.st ≠ stFaulted →
      exec (.coreReset c) s =
        .next ((refused s c (0x10000 * c + 0x220)).send (.error 3 (s.mmioAddr (0x10000 * c + 0x220))))))

/-! ### Keys, weights, sequences, marches -/

/-- R398, R399: a wrap that opens under DTK starts a session at counter 0; a write of an owner record enrols it where
there is none, and replaces one only when signed and of a higher VERSION, without its reserved bits; what is refused
is counted and answered. MODEL'S CHOICE: the first counter of a session (log entry 67). -/
def Obligations.session_and_owner : Prop :=
  ∀ (s : State), s.portOpen = true →
    (∀ v : SessionIn, v.opens = true → s.sec.dtk = true →
      exec (.secSession v) s = .next { s with sec := { s.sec with session := some 0 } }) ∧
    (∀ v : SessionIn, v.opens = false ∨ s.sec.dtk = false →
      exec (.secSession v) s = .next ((s.bumpD 0x500010).send (.error 4 (s.mmioAddr 0x10500500)))) ∧
    (∀ v : OwnerIn, s.writable = true →
      (s.sec.owner = none ∨ v.sigOk = true ∧
        ∃ old, s.sec.owner = some old ∧ bits old.toNat 575 544 < bits v.record.toNat 575 544) →
      ∃ t r, exec (.secOwnerIn v) s = .next t ∧ t = { s with sec := { s.sec with owner := some r } } ∧
        ∀ i, i < 1088 → r.getLsbD i = if 514 ≤ i ∧ i ≤ 543 then false else v.record.getLsbD i) ∧
    (∀ (v : OwnerIn) (old : BitVec 1088), s.writable = true → s.sec.owner = some old →
      (v.sigOk = false ∨ bits v.record.toNat 575 544 ≤ bits old.toNat 575 544) →
      exec (.secOwnerIn v) s = .next ((s.bumpD 0x500010).send (.error 4 (s.mmioAddr 0x10500380)))) ∧
    ∀ v : OwnerIn, s.writable = false →
      exec (.secOwnerIn v) s = .next ((s.bumpD 0x500010).send (.error 3 (s.mmioAddr 0x10500380)))

/-- R401: a read of the challenge makes a new one, valid from now; a valid response opens the service header and
erases every key, the owner record, HBM, the scratchpads and the semaphores; any other response is counted and
refused, and uses the challenge up; after 60 s the challenge is void. R403: a tamper trip erases the identity keys,
the owner record and every other key, sets its bit of the latch, counts and cycles the rails: the memories are gone,
and the device without keys stops its boot. MODEL'S CHOICE: which stores are on-chip stores (log entry 68). -/
def Obligations.zeroisation : Prop :=
  (∀ (s : State),
    (s.clocked = true → ∃ t, exec .secDbgChal s = .next t ∧ t.sec.chalLive = true ∧ t.sec.chalAt = s.scr.ns ∧
      t.sec.idk = s.sec.idk ∧ t.cores = s.cores ∧ t.mem = s.mem ∧
      t.out = s.out ++ [.value (s.mmioAddr 0x10500480) t.sec.chal.toNat]) ∧
    (s.clocked = true → s.sec.chalLive = true → s.scr.ns < s.sec.chalAt + 60000000000 →
      (s.ctl.st = stIdle ∨ s.ctl.st = stHalted ∨ s.ctl.st = stFaulted) →
      ∃ t, exec (.secDbgResp true) s = .next t ∧ t.sec.debugOpen = true ∧ t.sec.chalLive = false ∧ t.sec.idk = false ∧
        t.sec.dtk = false ∧ t.sec.owner = none ∧ t.sec.ddrKeys = false ∧ t.sec.session = none ∧
        t.sec.zeroised = true ∧ t.mem.hbm = [] ∧ t.sem = [] ∧
        ∀ c, (t.core c).sp.mem = [] ∧ (t.core c).bm = [] ∧ (t.core c).mx.ws = []) ∧
    (∀ v, s.clocked = true → (v = false ∨ s.sec.chalLive = false ∨ s.sec.chalAt + 60000000000 ≤ s.scr.ns) →
      ∃ t, exec (.secDbgResp v) s = .next t ∧ t.sec = { s.sec with chalLive := false } ∧
        t.dreg 0x500018 = satAdd 32 (s.dreg 0x500018) 1 ∧ t.cores = s.cores ∧ t.mem = s.mem ∧ t.sem = s.sem) ∧
    (s.sec.chalLive = true → s.sec.chalAt + 60000000000 ≤ s.scr.ns →
      exec .dbgChallengeExpiry s = .next { s with sec := { s.sec with chalLive := false } })) ∧
  (∀ (s : State) (n : Nat), s.clocked = true → n < 4 →
    ∃ t, exec (.tamperTrip n) s = .next t ∧ t.sec.idk = false ∧ t.sec.dtk = false ∧ t.sec.owner = none ∧
      t.sec.ddrKeys = false ∧ t.sec.jobKey = false ∧ t.sec.partKey = false ∧ t.sec.linkKeys = false ∧
      t.sec.session = none ∧ t.sec.zeroised = true ∧ bit t.sec.tamper n = true ∧
      t.sec.trips = min (s.sec.trips + 1) 65535 ∧ t.mem.hbm = [] ∧ t.mem.ddr = [] ∧ t.sem = [] ∧ t.cores = [] ∧
      t.pending = s.pending ∧ (t.ctl.st = stOff ∨ t.ctl.st = stFaulted))

/-- R306, R307: WD_FLIP on an entry without a pending flip toggles SEL at once, or while RUNNING makes the flip
pending at its step; a pending flip is taken when the least PNL_STEP in use reaches that step. Other entries stay.
R311, R312, R315, R316: SEQ_COMMIT of a manifest whose entries pass the checks starts the expansion, of any other
abandons it and counts; while one is under way it is refused. The end of an expansion counts it, clears BUSY and posts
the done semaphore of the hub. MODEL'S CHOICE: when an expansion's outputs appear (log entry 64), and that an
immediate flip does not count (65). -/
def Obligations.weights_and_sequences : Prop :=
  (∀ (s : State),
    (∀ v : DWord, s.portOpen = true →
      let e := v.toNat % 256
      let w := s.wd e
      (wdPend w = false → ∃ t, exec (.wdFlip v) s = .next t ∧ wdA (t.wd e) = wdA w ∧ wdB (t.wd e) = wdB w ∧
        wdSize (t.wd e) = wdSize w ∧ wdKind (t.wd e) = wdKind w ∧ wdFlips (t.wd e) = wdFlips w ∧
        (if s.ctl.st = stRunning then
          wdPend (t.wd e) = true ∧ wdSel (t.wd e) = wdSel w ∧ wdFlipStep (t.wd e) = bits v.toNat 55 8
        else wdPend (t.wd e) = false ∧ wdSel (t.wd e) = !wdSel w) ∧
        (∀ d, d < 256 → d ≠ e → t.wd d = s.wd d) ∧ t.mem = s.mem ∧ t.cores = s.cores) ∧
      (wdPend w = true → ∃ t, exec (.wdFlip v) s = .next t ∧ t.dreg 0x22010 = satAdd 32 (s.dreg 0x22010) 1 ∧
        (∀ d, d < 256 → t.wd d = s.wd d) ∧ t.out = s.out ++ [.error 3 (s.mmioAddr 0x10022000)])) ∧
    ∀ e m, e < 256 → wdPend (s.wd e) = true → s.stepMin = some m →
      (wdFlipStep (s.wd e) ≤ m → ∃ t, exec (.wdFlipComplete e) s = .next t ∧ wdPend (t.wd e) = false ∧
        wdSel (t.wd e) = !wdSel (s.wd e) ∧ wdFlips (t.wd e) = min (wdFlips (s.wd e) + 1) (2 ^ 32 - 1) ∧
        wdA (t.wd e) = wdA (s.wd e) ∧ wdB (t.wd e) = wdB (s.wd e) ∧ t.cores = s.cores ∧ t.mem = s.mem ∧
        ∀ d, d < 256 → d ≠ e → t.wd d = s.wd d) ∧
      (m < wdFlipStep (s.wd e) → exec (.wdFlipComplete e) s = .next s)) ∧
  (∀ (s : State),
    (∀ v : Word, s.portOpen = true →
      let b := v.toNat % 2
      let n := bits v.toNat 11 1
      (s.expand = none → 1 ≤ n → n ≤ 1024 → s.manFault b n 0 [] 0 = none →
        exec (.seqCommit v) s = .next { s with expand := some (b, n) }) ∧
      (∀ i f, s.expand = none → 1 ≤ n → n ≤ 1024 → s.manFault b n 0 [] 0 = some (i, f) →
        ∃ t, exec (.seqCommit v) s = .next t ∧ t.expand = none ∧ t.dreg 0x30024 = satAdd 32 (s.dreg 0x30024) 1 ∧
          t.dreg 0x30018 = 2 ∧ t.cores = s.cores ∧ t.mem = s.mem) ∧
      (s.expand.isSome = true →
        exec (.seqCommit v) s = .next ((s.bumpD 0x30020).send (.error 3 (s.mmioAddr 0x10030010))))) ∧
    ∀ b n, s.expand = some (b, n) → ∃ t, exec .seqExpansionDone s = .next t ∧ t.expand = none ∧
      t.dreg 0x3001C = satAdd 32 (s.dreg 0x3001C) 1 ∧ t.cores = s.cores ∧ t.mem.ddr = s.mem.ddr ∧
      (⟨0, 9, none, 0x120000 + 4 * bits (s.dreg 0x30008) 11 0, 0, 1, 0, noSerial⟩ : SemMsg) ∈ aget [] t.semIn 1828)

/-- R384: in IDLE a write of SAND_MARCH names a memory, or clears FAIL; elsewhere it is refused. When the march is
done the memories that it named are zero and FAIL tells whether it found anything. MODEL'S CHOICE: that the contents
change in the last step of a march (log entry 77). -/
def Obligations.memory_march : Prop :=
  ∀ (s : State),
    (s.portOpen = true → s.ctl.st = stIdle → ∀ row ∈ ([(.marchOnchip, 1), (.marchHbm, 2), (.marchDdr5, 4)] :
        List (Instr × Nat)),
      exec row.1 s = .next { s with sand := { s.sand with march := s.sand.march ||| row.2 } }) ∧
    (s.portOpen = true → s.ctl.st = stIdle →
      exec .sandMarchFailClear s = .next { s with sand := { s.sand with fail := false } }) ∧
    (s.portOpen = true → s.ctl.st ≠ stIdle → ∀ i ∈ [Instr.marchOnchip, .marchHbm, .marchDdr5, .sandMarchFailClear],
      exec i s = .next (s.send (.error 3 (s.mmioAddr 0x10410004)))) ∧
    ∀ f : MarchFindings, s.sand.march ≠ 0 → s.ctl.q = [] → ∃ t, exec (.marchDone f) s = .next t ∧ t.sand.march = 0 ∧
      (bit s.sand.march 0 = true → ∀ c, (t.core c).sp.mem = [] ∧ (t.core c).bm = [] ∧ (t.core c).mx.ws = []) ∧
      (bit s.sand.march 0 = false → t.cores = s.cores) ∧
      t.mem.hbm = (if bit s.sand.march 1 then [] else s.mem.hbm) ∧
      t.mem.ddr = (if bit s.sand.march 2 then [] else s.mem.ddr) ∧
      (t.sand.fail = true ↔ bit s.sand.march 0 = true ∧ (f.cores ≠ [] ∨ f.rows ≠ []) ∨
        bit s.sand.march 1 = true ∧ f.hbmPages ≠ [] ∨
        bit s.sand.march 2 = true ∧ f.ddrLines ≠ [])

/-! ### Panels -/

/-- R29, R38: PANEL_START, once the start condition holds: the core is in its panel from now on; a timed panel records
its start, and is late where its semaphore held, or the panel before it ended, after the planned start. R31, R35,
R372: an owed post leaves once every effect before it is visible; the halt is remembered inside a panel and stops a
core at a boundary; when it has reached every core the device leaves RUNNING, HALTED or with the job fault FAULTED.
MODEL'S CHOICE: when the start condition first held (log entry 36), and that a halt inside a panel is remembered (46).
-/
def Obligations.panel_events : Prop :=
  (∀ (s : State) (c : Nat), c < nCores →
    let k := s.core c
    let p := k.pnl
    let d := k.pdesc p.index
    let late := decide (s.planned p d < max p.prevEnd (if pdWait d then p.semAt else 0))
    (s.ctl.st = stRunning → s.panelReady c = true → ∃ t, exec (.panelStart c) s = .next t ∧
      let q := (t.core c).pnl
      q.phase = 2 ∧ q.index = p.index ∧ q.step = p.step ∧ q.base = p.base ∧ q.wait = none ∧ q.startCyc = s.cyc c ∧
      q.tokLim = some (pdTokens d) ∧ (t.core c).is = k.is ∧ (t.core c).sc = k.sc ∧ (t.core c).sp = k.sp ∧
      (if pdKind d = 1 then q.lastStart = s.scr.now ∧ q.late = late ∧
          (t.core c).reg rPnlLateCnt = (if late then satAdd 32 (k.reg rPnlLateCnt) 1 else k.reg rPnlLateCnt)
        else q.lastStart = p.lastStart ∧ q.late = p.late ∧ (t.core c).reg rPnlLateCnt = k.reg rPnlLateCnt)) ∧
    (s.ctl.st ≠ stRunning ∨ s.panelReady c = false → exec (.panelStart c) s = .next s)) ∧
  (∀ (s : State) (c : Nat), c < nCores →
    let k := s.core c
    (∀ x rest, k.pnl.posts = x :: rest → s.postReady c x = true → gaCoord x.addr = s.fab.coord →
      (semPlace (gaOff x.addr)).isSome = true → ∃ t, exec (.panelPost c) s = .next t ∧ (t.core c).pnl.posts = rest ∧
        t.atHome ⟨c, 11, none, gaOff x.addr, 0, 1, 0, noSerial⟩ x.addr) ∧
    (∀ x rest, k.pnl.posts = x :: rest → s.postReady c x = false → exec (.panelPost c) s = .next s) ∧
    (s.ctl.st = stRunning → s.ctl.halt = true → ∃ t, exec (.coreHalt c) s = .next t ∧ (t.core c).halted = true ∧
      (if k.pnl.phase = 2 ∧ k.is.stopped = false then (t.core c).pnl = k.pnl ∧ (t.core c).se = k.se
        else (t.core c).pnl.wait = none ∧ 
          (t.core c).pnl.phase = (if k.pnl.phase = 1 ∧ k.is.stopped = false then 4 else k.pnl.phase) ∧
          ∀ n, n < 4 → ((t.core c).engine n).run ≠ 1)) ∧
    (s.haltDone = true → ∃ t, exec .haltComplete s = .next t ∧
      t.ctl.st = (if s.endCode = 4 then stFaulted else stHalted) ∧ t.ctl.endCode = s.endCode ∧
      (s.ctl.fault.isSome = true → s.endCode = 4) ∧ t.ctl.halt = false ∧ t.mem.hbm = s.mem.hbm ∧
      t.mem.ddr = s.mem.ddr) ∧
    (s.haltDone = false → exec .haltComplete s = .next s))

/-! ### The engines of a core -/

/-- R93: the oldest waiting retirement starts to move once its last product is visible and the queue is free, for 16
cycles; then the entry is READY with the bank's accumulators, type and poison, and the bank IDLE. R164 to R168, R170:
the oldest operation that has not finished starts when the ones before it have made their last access, and a fill
writes its first row at once; LSEG changes its segments one cycle on, unless one is FILLING; an operation whose rows
are visible leaves the queue after its post; the scrubber presents its read each interval, and reads the row whose
turn it is when its port is free at the end of the cycle. -/
def Obligations.core_engines : Prop :=
  (∀ (s : State) (c : Nat), c < nCores →
    let k := s.core c
    (∀ r rest, k.mx.retq = r :: rest → k.mx.moving = none → (k.bankNo r.bank).vis ≤ k.is.clk →
      k.mx.freeAt ≤ k.is.clk → ∃ t, exec (.retirementMove c) s = .next t ∧ (t.core c).mx.retq = rest ∧
        (t.core c).mx.moving = some (r, k.is.clk + 16) ∧
        (aget FtqEntry.init (t.core c).mx.ftq r.entry).st = 2 ∧ (t.core c).mx.banks = k.mx.banks) ∧
    (∀ r n, k.mx.moving = some (r, n) →
      (n ≤ k.is.clk → ∃ t, exec (.tileReady c) s = .next t ∧
        aget FtqEntry.init (t.core c).mx.ftq r.entry =
          ⟨3, (k.bankNo r.bank).int, (k.bankNo r.bank).poison, 0, (k.bankNo r.bank).acc⟩ ∧
        ((t.core c).bankNo r.bank).st = 0 ∧ ((t.core c).bankNo r.bank).opn = [] ∧ (t.core c).mx.moving = none ∧
        (∀ m, m < 4 → m ≠ r.bank → r.bank < 4 → (t.core c).bankNo m = k.bankNo m)) ∧
      (k.is.clk < n → ∃ t, exec (.tileReady c) s = .next t ∧ t.core c = k))) ∧
  (∀ (s : State) (c : Nat), c < nCores →
    let k := s.core c
    let cyc := s.cyc c
    (∀ o, k.lmCur = some o → o.started = false → k.lmFree ≤ cyc →
      (o.lop ≠ 1 → o.buf = [] →
        exec (.lmOpStart c) s = .next (s.setCore c { k with lm := setCur k.lm { o with started := true } })) ∧
      (o.lop = 1 → k.is.granted = true → k.portTaken true (o.row + o.wr * o.dstr) = false →
        ∃ t, exec (.lmOpStart c) s = .next t ∧
          (t.core c).landingAt (cyc + 3) (.row 2 (o.row + o.wr * o.dstr) (fillRow o.src) false) ∧
          (t.core c).reg rSpLmRows = satAdd 32 (k.reg rSpLmRows) 1 ∧ (t.core c).sp = k.sp)) ∧
    (∀ o, k.lmCur = some o → o.lop = 3 → o.started = true →
      (k.lm.any fun x => match x.visAt with | some t => decide (cyc < t) | none => false) = false →
      ((∀ i, i < o.len → k.segState (o.row / 64 + i) ≠ segFilling) → ∃ t, exec (.lsegAct c) s = .next t ∧
        ∀ i, i < o.len → (t.core c).landingAt (cyc + 1) (.seg (o.row / 64 + i) (o.dstr % 4))) ∧
      ((∃ i, i < o.len ∧ k.segState (o.row / 64 + i) = segFilling) → ∃ t, exec (.lsegAct c) s = .next t ∧
        (t.core c).inflight = k.inflight ∧ (t.core c).sp = k.sp)) ∧
    (∀ o rest n, k.lm = o :: rest → o.visAt = some n → n ≤ cyc →
      (o.post = false → exec (.lmOpComplete c) s = .next (s.setCore c { k with lm := rest })) ∧
      (o.post = true → o.posted = false → ∃ t, exec (.lmOpComplete c) s = .next t ∧
        (⟨c, 9, none, 512 * c + 4 * o.sem, 0, 1, 0, o.serial⟩ : SemMsg) ∈ aget [] t.semIn c) ∧
      (o.post = true → o.posted = true → s.postWaits c o.serial = false →
        exec (.lmOpComplete c) s = .next (s.setCore c { k with lm := rest }))) ∧
    (s.ctl.st ≠ stOff → k.scrubInterval ≠ 0 → k.sp.scrubLeft = 0 → exec (.scrubRead c) s =
      .next (s.setCore c { k with sp := { k.sp with scrubReq := true, scrubLeft := k.scrubInterval } })) ∧
    (∀ u, s.scrubServe c = u → k.sp.scrubReq = true →
      (k.portTaken false k.sp.scrubPos = false → (u.core c).sp.scrubPos = (k.sp.scrubPos + 1) % 16384 ∧
        (u.core c).sp.scrubReq = false ∧ (u.core c).sp.mem = k.sp.mem) ∧
      (k.portTaken false k.sp.scrubPos = true → u = s.setCore c k.held)) ∧
    (s.ctl.st = stOff ∨ k.scrubInterval = 0 ∨ k.sp.scrubLeft ≠ 0 → exec (.scrubRead c) s = .next s))

/-! ### Stream engines -/

/-- R225, R227, R228, R234, R235, R239 and Table 10-2: the instructions that work on an engine's own registers, each
in one cycle; SEND drains the engine. An instruction that is not the engine's next one changes nothing. -/
def Obligations.stream_registers : Prop :=
  ∀ (s : State) (c n : Nat), c < nCores → n < 4 →
    let k := s.core c
    let g := k.engine n
    let w := k.sInstr n g.pc
    let cyc := s.cyc c
    (∀ row ∈ streamRows, k.seAt n row.2 cyc = false → exec (row.1 c n) s = .next s) ∧
    (k.seAt n 0x00 cyc = true → ∃ t, exec (.send c n) s = .next t ∧ (t.core c).engine n =
      { g with run := if k.tags n = 0 then 0 else 2, nextAt := cyc, xfer := none, wait := none, fence := false,
               holds := [], wordRows := [] }) ∧
    (k.seAt n 0x01 cyc = true → ∃ t g', exec (.sbase c n) s = .next t ∧ streamWent s t c n g' ∧
      { g' with ar := g.ar, bind := g.bind } = g ∧
      (∀ r, g'.arg r = if r = siD w then addA (k.htAddr (siH w)) (siImm w) else g.arg r) ∧
      ∀ r, g'.handle r = if r = siD w then some (siH w) else g.handle r) ∧
    (k.seAt n 0x02 cyc = true → ∃ t g', exec (.sldi c n) s = .next t ∧ streamWent s t c n g' ∧
      { g' with ar := g.ar, bind := g.bind } = g ∧
      (∀ r, g'.arg r = if r = siD w then
          (if siSelA w = 0 then addA 0 (siImm w) else if siSelA w = 1 then g.p0 else if siSelA w = 2 then g.p1
            else g.p1 * 2 ^ 32 + g.p0) % 2 ^ 64
        else g.arg r) ∧
      ∀ r, g'.handle r = if r = siD w then none else g.handle r) ∧
    (k.seAt n 0x03 cyc = true → ∃ t g', exec (.sadd c n) s = .next t ∧ streamWent s t c n g' ∧
      { g' with ar := g.ar } = g ∧
      ∀ r, g'.arg r = if r = siD w then
          addA (g.arg r) (if siSelA w = 0 then siImm w else if siSelA w = 1 then (g.arg (siS w) : Int)
            else if siSelA w = 2 then (g.p0 : Int) else (g.p1 : Int))
        else g.arg r) ∧
    (∀ h, k.seAt n 0x04 cyc = true → g.handle (siD w) = some h → 0 < siImm w → siImm w % 512 = 0 →
      ∃ t g', exec (.swrap c n) s = .next t ∧ streamWent s t c n g' ∧ { g' with ar := g.ar } = g ∧
        ∀ r, g'.arg r = if r = siD w then
            (k.htAddr h + addA (g.arg r) (-(k.htAddr h : Int)) % (siImm w).toNat) % 2 ^ 64
          else g.arg r) ∧
    (k.seAt n 0x04 cyc = true → (g.handle (siD w) = none ∨ siImm w ≤ 0 ∨ siImm w % 512 ≠ 0) →
      ∃ t, exec (.swrap c n) s = .next t ∧ (t.core c).streamStopped n ∧ ((t.core c).engine n).ar = g.ar) ∧
    (k.seAt n 0x10 cyc = true → ∃ t g', exec (.sloop c n) s = .next t ∧ streamWent s t c n g' ∧
      { g' with lp := g.lp } = g ∧ ∀ r, g'.lpc r = if r = siD w then
          (if siSelC w = 0 then siVal w else if siSelC w = 1 then g.p0 else g.p1) else g.lpc r) ∧
    (k.seAt n 0x11 cyc = true → g.lpc (siD w) ≤ 1 → ∃ t g', exec (.snext c n) s = .next t ∧ streamWent s t c n g' ∧
      { g' with lp := g.lp } = g ∧ ∀ r, g'.lpc r = if r = siD w then 0 else g.lpc r) ∧
    (k.seAt n 0x11 cyc = true → 1 < g.lpc (siD w) → ∃ t, exec (.snext c n) s = .next t ∧
      { (t.core c).engine n with lp := g.lp } = { g with pc := siTarget w, nextAt := cyc + 1 } ∧
      ∀ r, ((t.core c).engine n).lpc r = if r = siD w then g.lpc r - 1 else g.lpc r) ∧
    (k.seAt n 0x1C cyc = true → ∃ t, exec (.srate c n) s = .next t ∧ streamWent s t c n
      { g with rate := siRate w, burst := siBurst w, tagq := (if siTagq w = 0 then 16 else siTagq w),
               bucket := min g.bucket ((siBurst w + 1) * 8192) })

/-- R224, R230, R236 to R240: a transfer begins with line 0; each request takes the lowest free tag and the tokens of
one line; SWAIT sends its wait and SPOST its add, fenced while lines are outstanding; a program read is in place when
its four rows are. -/
def Obligations.stream_transfers : Prop :=
  ∀ (s : State) (c n : Nat), c < nCores → n < 4 →
    let k := s.core c
    let g := k.engine n
    let w := k.sInstr n g.pc
    let cyc := s.cyc c
    let a := g.arg (siD w)
    (∀ row ∈ ([(.sread, 0x08), (.swrite, 0x09), (.sgath, 0x0A)] : List ((Nat → Nat → Instr) × Nat)),
      k.seAt n row.2 cyc = true → ∃ t, exec (row.1 c n) s = .next t ∧
        (t.core c).engine n = { g with xfer := some ⟨0, g.execs, [], none⟩, execs := g.execs + 1, wordRows := [] } ∧
        (t.core c).lines = k.lines) ∧
    (∀ x src dst, g.run = 1 → g.xfer = some x → lineStep k s.fab.coord c n cyc g x = .go src dst →
      let wr : Bool := siOp w == 0x09
      ∃ t, exec (.lineRequest c n) s = .next t ∧
        (∃ l ∈ (t.core c).lines, k.freeTag = some l.tag ∧ l.eng = n ∧ l.write = wr ∧ l.stage = 0 ∧
          l.row = rowOf (if wr then src else dst) ∧
          l.mem = (s.translate (if wr then dst else src) wr g.tstep).getD (if wr then dst else src)) ∧
        ((t.core c).engine n).bucket = g.bucket - 8192 ∧
        ((t.core c).engine n).xfer =
          if x.i + 1 = siLines w then none else some { x with i := x.i + 1, rows := [], heldSince := none }) ∧
    (∀ x r, g.run = 1 → g.xfer = some x → lineStep k s.fab.coord c n cyc g x = .hold r →
      ∃ t, exec (.lineRequest c n) s = .next t ∧ (t.core c).reg r = satAdd 32 (k.reg r) 1 ∧
        (t.core c).lines = k.lines) ∧
    (∀ x r b, g.run = 1 → g.xfer = some x → lineStep k s.fab.coord c n cyc g x = .bad r b →
      ∃ t, exec (.lineRequest c n) s = .next t ∧ (t.core c).streamStopped n ∧ (t.core c).lines = k.lines) ∧
    (∀ x r, g.run = 1 → g.xfer = some x → lineStep k s.fab.coord c n cyc g x = .poison r →
      ∃ t, exec (.lineRequest c n) s = .next t ∧ (t.core c).streamStopped n ∧ (t.core c).lines = k.lines) ∧
    (k.seAt n 0x18 cyc = true → seAccess k s.fab.coord c g (siD w) a 4 (siSub w) 0 = none → gaCoord a = s.fab.coord →
      (semPlace (gaOff a)).isSome = true →
      let dl := s.scr.now + s.waitLimit
      ∃ t, exec (.swait c n) s = .next t ∧
        ((t.core c).engine n).wait = some ⟨a, siVal w, siSub w, s.scr.now, dl, 0, 0⟩ ∧
        t.atHome ⟨c, 3 + n, none, gaOff a, if siSub w then 2 else 1, siVal w, dl, 0⟩ a) ∧
    (k.seAt n 0x18 cyc = true → seAccess k s.fab.coord c g (siD w) a 4 (siSub w) 0 ≠ none →
      ∃ t, exec (.swait c n) s = .next t ∧ (t.core c).streamStopped n) ∧
    (k.seAt n 0x19 cyc = true → k.tags n ≠ 0 → ∃ t, exec (.spost c n) s = .next t ∧
      (t.core c).engine n = { g with fence := true } ∧ t.semIn = s.semIn) ∧
    (k.tags n = 0 → seAccess k s.fab.coord c g (siD w) a 4 true 0 = none → gaCoord a = s.fab.coord →
      (semPlace (gaOff a)).isSome = true → g.pc < 31 →
      ∀ i : Instr, (i = .spost c n ∧ k.seAt n 0x19 cyc = true ∨
          i = .spostRelease c n ∧ g.run = 1 ∧ g.fence = true) →
        ∃ t, exec i s = .next t ∧ (t.core c).engine n = { g with fence := false, pc := g.pc + 1, nextAt := cyc + 1 } ∧
          t.atHome ⟨c, 13 + n, none, gaOff a, 0, sext 32 (siVal w), 0, noSerial⟩ a) ∧
    (∀ r rest, takeFirst (fun r : Reader => r.kind == 4 && r.eng == n) k.readers = some (r, rest) →
      r.n ≤ r.got.length → r.lastAt + 7 ≤ cyc → (∀ j, j < 4 → (r.got.getD j (0#512, false)).2 = false) →
      ∃ t, exec (.spldDone c n) s = .next t ∧ (t.core c).readers = rest ∧ ∀ j, j < 32 →
        (t.core c).sInstr n j = bits (join 512 (r.got.map fun x => x.1.toNat)) (64 * j + 63) (64 * j))

/-! ### Lines and refresh -/

/-- R242, R246, R247: a row of a line, or of the landing queue, is visible three cycles after its write; the eighth
row makes the line landed. A written line completes when it is acknowledged, a read line when its rows are visible; an
error response stops the engine. -/
def Obligations.line_landing : Prop :=
  ∀ (s : State) (c tag : Nat), c < nCores →
    let k := s.core c
    let cyc := s.cyc c
    (∀ l f v p, k.lineOf tag = some l → k.landing l.eng = some f → f.tag = tag → l.nextRow = some (v, p) →
      k.is.granted = true → k.is.noBeat = false → l.eng ∉ k.is.landers →
      k.landWins l.eng (l.row + l.landed) = true →
      ∃ t, exec (.lineRowLand c (.line tag)) s = .next t ∧
        (t.core c).landingAt (cyc + 3) (.row 3 (l.row + l.landed) (wholeRow v) p) ∧
        (t.core c).lineOf tag = some (if l.landed < 7 then { l with landed := l.landed + 1 }
          else { l with landed := 8, stage := 3, visAt := cyc + 3 }) ∧
        (7 ≤ l.landed → (t.core c).reg (rSeLinesIn l.eng) = satAdd 32 (k.reg (rSeLinesIn l.eng)) 1)) ∧
    (∀ x rest, k.ext = x :: rest → k.is.granted = true → k.is.noBeat = false → 4 ∉ k.is.landers →
      k.landWins 4 x.row = true →
      ∃ t, exec (.lineRowLand c .ext) s = .next t ∧ (t.core c).ext = rest ∧
        (t.core c).landingAt (cyc + 3) (.row 3 x.row x.bytes x.poison)) ∧
    (∀ l, k.lineOf tag = some l → (l.write = true ∧ l.stage = 2 ∨ l.write = false ∧ l.stage = 3 ∧ l.visAt ≤ cyc) →
      ∃ t, exec (.lineComplete c tag) s = .next t ∧ (t.core c).lineOf tag = none ∧
        (∀ m, m ≠ tag → (t.core c).lineOf m = k.lineOf m) ∧ ((t.core c).engine l.eng).run =
          if (k.engine l.eng).run = 2 ∧ (t.core c).tags l.eng = 0 then 0 else (k.engine l.eng).run) ∧
    (∀ l code, k.lineOf tag = some l → l.bad = true → ∃ t, exec (.lineErrorResponse c tag code) s = .next t ∧
      (t.core c).streamStopped l.eng ∧ (t.core c).lineOf tag = none ∧ (t.core c).sp = k.sp) ∧
    ∀ code, (k.lineOf tag = none ∨ ∃ l, k.lineOf tag = some l ∧ l.bad = false) →
      exec (.lineErrorResponse c tag code) s = .next s

/-- R245 to R248, R290, R295, R301: a request of this device's memory that the egress of its bay and die sends next reaches
its controller. An HBM read joins an open merge entry; what its controller cannot serve yet waits there; a write replaces its
line; a DDR5 read and a read of another core's scratchpad return at once; an HBM read opens an entry, which then returns its
line to every joiner. Reads change no byte. MODEL'S CHOICE: that lines return in the step that serves them (log entry 28),
when SE_MERGED counts (42), and that a command which would not win its arbitration does nothing (109). -/
def Obligations.memory_requests : Prop :=
  (∀ (s : State) (c tag : Nat) (e : EccFind) (l : Line), c < nCores → (s.core c).lineOf tag = some l → l.stage = 0 →
    l.bad = false → gaCoord l.mem = s.fab.coord →
    let a := l.mem
    let h : Held := ⟨(c, tag), a, if l.write then some (bytesOfRows l.data, l.data.any (·.2)) else none, e⟩
    let joins : Bool := !l.write && gaSpace a == spHbm &&
      s.mem.merges.any fun m => m.line == s.hbmLineOf a && m.joinable s.refCount
    (s.granted c l = false → exec (.memoryRequest c tag e) s = .next s) ∧
    (s.granted c l = true → s.memOk a 512 = false → ∃ t, exec (.memoryRequest c tag e) s = .next t ∧
      (t.core c).lineOf tag = some { l with bad := true } ∧ t.mem = s.mem) ∧
    (s.granted c l = true → s.memOk a 512 = true → ∃ t, exec (.memoryRequest c tag e) s = .next t ∧
      (l.write = false → t.mem.hbm = s.mem.hbm ∧ t.mem.ddr = s.mem.ddr) ∧
      (joins = true → (t.core c).lineOf tag = some { l with stage := 1 } ∧ t.mem.held = s.mem.held ∧
        ∃ m ∈ t.mem.merges, m.line = s.hbmLineOf a ∧ (c, tag, a) ∈ m.joiners) ∧
      (joins = false → s.mustWait s.mem.held h = true → (t.core c).lineOf tag = some { l with stage := 1 } ∧
        t.mem.held = s.mem.held ++ [h] ∧ t.mem.hbm = s.mem.hbm ∧ t.mem.ddr = s.mem.ddr) ∧
      (joins = false → s.mustWait s.mem.held h = false → t.mem.held = s.mem.held ∧
        (l.write = true → gaSpace a ≠ spSp → l.data.length = 8 → (t.core c).lineOf tag = some { l with stage := 2 } ∧
          (s.stackOut a = false → gaSpace a = spHbm ∨ s.sec.ddrKeys = true →
            t.lineAt a = (bytesOfRows l.data, l.data.any (·.2))) ∧
          (∀ x, gaSpace a = spHbm → x / 512 ≠ s.lineKey a → mget t.mem.hbm x = mget s.mem.hbm x) ∧
          (∀ x, gaSpace a = spDdr → x / 512 ≠ s.lineKey a → mget t.mem.ddr x = mget s.mem.ddr x) ∧
          (if gaSpace a = spHbm then t.mem.ddr = s.mem.ddr else t.mem.hbm = s.mem.hbm)) ∧
        (l.write = false → gaSpace a = spDdr → (t.core c).lineOf tag =
          some { l with data := rowsOfLine (s.lineAt a).1 ((s.lineAt a).2 || eccBad e), stage := 2, merged := false,
                        back := s.cyc c }) ∧
        (l.write = false → gaSpace a = spHbm → (t.core c).lineOf tag = some { l with stage := 1 } ∧
          ∃ m ∈ t.mem.merges, m.line = s.hbmLineOf a ∧ (c, tag, a) ∈ m.joiners ∧
            ((∀ n ∈ s.mem.merges, n.line = s.hbmLineOf a → n.got = true) → m.joiners = [(c, tag, a)] ∧ m.got = true ∧
              m.data = (s.lineAt a).1 ∧ m.poison = ((s.lineAt a).2 || eccBad e))) ∧
        (l.write = true → gaSpace a = spSp → (t.core c).lineOf tag = some { l with stage := 1 } ∧
          (t.core (gaOff a >>> 20)).ext.length = (s.core (gaOff a >>> 20)).ext.length + 8) ∧
        (l.write = false → gaSpace a = spSp → (t.core c).lineOf tag =
          some { l with data := rowsOfLine (s.readSpLine a).2.1 (s.readSpLine a).2.2, stage := 2, merged := false,
                        back := s.cyc c })))) ∧
  ∀ (s : State) (i : Nat) (m : Merge), s.mem.merges[i]? = some m →
    (m.got = false → exec (.mergedLineReturn i) s = .next s) ∧
    (m.got = true → ∃ t, exec (.mergedLineReturn i) s = .next t ∧ t.mem.hbm = s.mem.hbm ∧
      ∀ d n a j, (d, n, a) ∈ m.joiners.drop m.served → d < 2048 → (s.core d).lineOf n = some j → j.stage = 1 →
        j.write = false → (t.core d).lineOf n =
          some { j with data := rowsOfLine m.data m.poison, stage := 2, merged := decide (2 ≤ m.joiners.length),
                        back := s.cyc d })

/-- R295, R296, R301: the refresh windows open at their ticks, 120 and 130 tk long; a hot stack's windows double, its
rate changing at the next period boundary after the report. -/
def Obligations.refresh : Prop :=
  ∀ (s : State) (n : Nat),
    let t0 := s.refCount
    (∀ p, n < 12 → p < 64 → t0 % 3840 = 120 * (p % 32) → exec (.hbmRefreshWindow n p) s =
      .next { s with mem := { s.mem with hbmWin := aput s.mem.hbmWin (64 * n + p) (t0 + 120) } }) ∧
    (∀ p, n < 12 → p < 64 → t0 % 3840 = (1920 + 120 * (p % 32)) % 3840 → bit (s.dreg 0x10008) n = true →
      ∃ t, exec (.hbmRefreshWindow n p) s = .next t ∧ aget 0 t.mem.hbmWin (64 * n + p) = t0 + 120 ∧
        t.dreg 0x1000C = satAdd 32 (s.dreg 0x1000C) 1) ∧
    (∀ p, n < 12 → p < 64 → t0 % 3840 ≠ 120 * (p % 32) →
      (t0 % 3840 ≠ (1920 + 120 * (p % 32)) % 3840 ∨ bit (s.dreg 0x10008) n = false) →
      exec (.hbmRefreshWindow n p) s = .next s) ∧
    (∀ deg, n < 12 → 85 < deg → ∃ t, exec (.hbmTempReport n deg) s = .next t ∧
      afind t.mem.refNext n = some (true, t0) ∧ t.dregs = s.dregs) ∧
    (∀ deg, n < 12 → deg ≤ 82 → ∃ t, exec (.hbmTempReport n deg) s = .next t ∧
      afind t.mem.refNext n = some (false, t0) ∧ t.dregs = s.dregs) ∧
    (∀ b t1, n < 12 → afind s.mem.refNext n = some (b, t1) → t0 % 3840 = 0 → t1 < t0 →
      ∃ t, exec (.hbmRefRate n) s = .next t ∧ bit (t.dreg 0x10008) n = b ∧ afind t.mem.refNext n = none ∧
        (bit (s.dreg 0x10008) n ≠ b → ∃ e ∈ t.er.q, e.code = evHbmRefRate ∧ e.payload = [n + 16 * b2n b]) ∧
        ∀ m, m < 12 → m ≠ n → bit (t.dreg 0x10008) m = bit (s.dreg 0x10008) m) ∧
    (∀ b t1, n < 12 → afind s.mem.refNext n = some (b, t1) → (t0 % 3840 ≠ 0 ∨ t0 ≤ t1) →
      exec (.hbmRefRate n) s = .next s) ∧
    ∀ set, n < 8 → set < 4 → (t0 % 1920 = (480 * set + 60 * n) % 1920 → ∃ t, exec (.ddrRefreshWindow n set) s = .next t ∧
        aget 0 t.mem.ddrWin (4 * n + set) = t0 + 130) ∧
      (t0 % 1920 ≠ (480 * set + 60 * n) % 1920 → exec (.ddrRefreshWindow n set) s = .next s)

/-! ### Messages, semaphores, waits -/

/-- R270 to R272, R276, R277: what arrives over the lath. A message joins its queue, or a closed queue discards it; a
credit, freed bytes and a close notice reach their route; a record joins the landing queue, and once its rows are
visible its bytes count as landed and the mailbox's semaphore is posted. MODEL'S CHOICE: that one command lets a
record arrive and posts it (log entry 17), and that its row wraps (38). -/
def Obligations.lath_arrivals : Prop :=
  ∀ (s : State) (c n : Nat), c < nCores → n < 8 →
    let k := s.core c
    (∀ src ws j u, s.offLath (LathMsg.forQueue c n) = some (.msg src c n ws j, u) →
      ∃ t, exec (.queueMessageArrival c n) s = .next t ∧ t.lath = u.lath ∧
        (if (k.queue n).closed then (t.core c).queue n = k.queue n ∧
            (t.core c).reg (rQDisc n) = satAdd 32 (k.reg (rQDisc n)) 1
          else ((t.core c).queue n).msgs = (k.queue n).msgs ++ [ws] ∧ ((t.core c).queue n).head = (k.queue n).head)) ∧
    (∀ m u, s.offLath (LathMsg.creditFor c n) = some (m, u) →
      ∃ t, exec (.creditReturn c n) s = .next t ∧ t.lath = u.lath ∧
        (t.core c).route n = { k.route n with credit := (k.route n).credit + 1 }) ∧
    (∀ m u, s.offLath (LathMsg.closeFor c n) = some (m, u) →
      ∃ t, exec (.closeNotice c n) s = .next t ∧ t.lath = u.lath ∧
        (t.core c).route n = { k.route n with st := if (k.route n).st = 1 then 2 else (k.route n).st }) ∧
    (∀ b u, s.offLath (LathMsg.bytesFor c n) = some (.mbCredit c n b, u) →
      ∃ t, exec (.mailboxCredit c n) s = .next t ∧ t.lath = u.lath ∧
        (t.core c).route n = { k.route n with credit := (k.route n).credit + b }) ∧
    (∀ size src ans v more, n < 4 → k.landedRecord n (s.cyc c) = some (⟨.record n size src ans, v⟩, more) →
      ∃ t, exec (.mailboxRecordLand c n) s = .next t ∧ (t.core c).extWait = more ∧
        (t.core c).mbx n = (k.mbx n).took (64 * mbRows (k.mbxCfg n)) size ∧
        (t.core c).reg (rMbxRec n) = satAdd 32 (k.reg (rMbxRec n)) 1 ∧
        (⟨c, 9, none, ownSem c (mbSem (k.mbxCfg n)), 0, 1, 0, noSerial⟩ : SemMsg) ∈ aget [] t.semIn c) ∧
    (∀ src rows j u, n < 4 → k.landedRecord n (s.cyc c) = none →
      s.offLath (LathMsg.forMbx c n) = some (.record src c n rows j, u) →
      ∃ t, exec (.mailboxRecordLand c n) s = .next t ∧ t.lath = u.lath ∧
        (if (k.mbx n).closed then (t.core c).ext = k.ext ∧
            (t.core c).reg (rMbxDisc n) = satAdd 32 (k.reg (rMbxDisc n)) 1
          else (t.core c).ext.length = k.ext.length + rows.length ∧ ((∀ x ∈ k.ext, x.came ≠ s.cyc c) → (t.core c).ext =
            k.ext ++ rows.map fun r =>
              { r with row := (mbBase (k.mbxCfg n) + r.row) % 16384, came := s.cyc c, sender := src })))

/-- R254, R259, R260, R262: in one cycle a home applies two updates of a semaphore, oldest first and saturating; a
wait that arrives after its deadline is answered TIMEOUT, one that the value satisfies is released, with its
subtraction, any other is parked; a wait that finds the store full is answered RETRY. A fenced update leaves once
nothing before it is under way. MODEL'S CHOICE: the order of arrival is the order of the commands (log entry 8). -/
def Obligations.semaphore_homes : Prop :=
  (∀ (s : State) (place o : Nat) (m n : SemMsg) (ms : List SemMsg), place < 1829 →
    aget [] s.semLate place ++ aget [] s.semIn place = m :: n :: ms → aget [] s.semPark place = [] →
    (∀ x ∈ m :: n :: ms, x.kind = 0 ∧ x.rem = none ∧ x.off = o) →
      ∃ t, exec (.semHomeCycle place) s = .next t ∧
        t.semVal o = satSem (satSem (s.semVal o) m.amount) n.amount ∧ aget [] t.semLate place = ms ∧
        aget [] t.semIn place = [] ∧
        ∀ p, p ≠ o → t.semVal p = s.semVal p) ∧
  (∀ (s : State) (place : Nat) (m : SemMsg), place < 1829 → aget [] s.semPark place = [] → m.rem = none →
    aget [] s.semLate place ++ aget [] s.semIn place = [m] → m.kind < 3 →
      let v := s.semVal m.off
      let ans (n : Nat) : List SemAns := s.semAns ++ [⟨(semPlace m.off).getD 0, m.core, m.party, n⟩]
      ∃ t, exec (.semHomeCycle place) s = .next t ∧ (∀ p, p ≠ m.off → t.semVal p = s.semVal p) ∧
        aget [] t.semIn place = [] ∧ aget [] t.semLate place = [] ∧
        (if m.kind = 0 then t.semVal m.off = satSem v m.amount ∧ t.semAns = s.semAns
        else if m.deadline < s.scr.now then t.semVal m.off = v ∧ t.semAns = ans 1
        else if m.amount ≤ v.toInt then
          t.semVal m.off = (if m.kind = 1 then v else satSem v (-m.amount)) ∧
            t.semAns = ans 0
        else t.semVal m.off = v ∧ t.semAns = s.semAns ∧ aget [] t.semPark place = [m])) ∧
  (∀ (s : State) (place : Nat) (m : SemMsg), place < 1829 → m.rem = none →
    aget [] s.semLate place ++ aget [] s.semIn place = [m] → m.kind ≠ 0 →
    waitStore place ≤ (aget [] s.semPark place).length →
      ∃ t, exec (.semHomeCycle place) s = .next t ∧ 
        (⟨(semPlace m.off).getD 0, m.core, m.party, 2⟩ : SemAns) ∈ t.semAns) ∧
  ∀ (s : State) (c : Nat) (op : SyncOp) (rest : List SyncOp), c < nCores → (s.core c).sync = op :: rest →
    let wait := op.fence && (s.unapplied c op.serial || (s.core c).unwritten op.serial)
    (wait = true → exec (.semFenceRelease c) s = .next s) ∧
    (wait = false → gaCoord op.addr = s.fab.coord → (semPlace (gaOff op.addr)).isSome = true →
      ∃ t, exec (.semFenceRelease c) s = .next t ∧ (t.core c).sync.length ≤ rest.length ∧
        t.atHome ⟨c, 8, none, gaOff op.addr, 0, op.amount, 0, op.serial⟩ op.addr)

/-- R258, R260, R264, R265, R281: the release reaches its party, and a stream engine goes on; a RETRY sends the wait
again 64 tk later with its deadline; a TIMEOUT, no answer from another device, or a hold past the limit stops the core
with the job fault. -/
def Obligations.wait_answers : Prop :=
  ∀ (s : State) (c party : Nat), c < nCores → party < 7 →
    let k := s.core c
    (∀ w a rest, k.waitOf party = some w → w.stage = 0 →
      s.nextAns c party false = some (a, rest) →
        ∃ t, exec (.semRelease c party) s = .next t ∧ t.semAns = rest ∧
          (if a.ans ≠ 0 then (t.core c).waitOf party = some { w with stage := 2, resendAt := s.scr.now + 64 } ∧
              (t.core c).reg rSemRetry = satAdd 32 (k.reg rSemRetry) 1
            else if party < 3 then (t.core c).waitOf party = some { w with stage := 1 }
            else (t.core c).waitOf party = none ∧ ((k.engine (party - 3)).pc < 31 →
              ((t.core c).engine (party - 3)).pc = (k.engine (party - 3)).pc + 1))) ∧
    (∀ w, k.waitOf party = some w → w.stage = 2 → w.resendAt ≤ s.scr.now → gaCoord w.addr = s.fab.coord →
      (semPlace (gaOff w.addr)).isSome = true → ∃ t, exec (.semWaitResend c party) s = .next t ∧
        (t.core c).waitOf party = some { w with stage := 0 } ∧
        t.atHome ⟨c, party, none, gaOff w.addr, if w.sub then 2 else 1, w.count, w.deadline, 0⟩ w.addr) ∧
    (∀ w, k.waitOf party = some w → (w.stage ≠ 2 ∨ s.scr.now < w.resendAt) →
      exec (.semWaitResend c party) s = .next s) ∧
    (∀ w a rest, k.waitOf party = some w → s.nextAns c party true = some (a, rest) →
        ∃ t, exec (.waitLimitExpiry c party) s = .next t ∧ timedOut s t c w.addr ∧ (t.core c).waitOf party = none) ∧
    (∀ w, k.waitOf party = some w → gaCoord w.addr ≠ s.fab.coord → w.stage ≠ 1 → w.deadline + 100000 ≤ s.scr.now →
      ∃ t, exec (.remoteWaitExpiry c party) s = .next t ∧ timedOut s t c w.addr ∧ (t.core c).waitOf party = none) ∧
    (∀ w, k.waitOf party = some w →
      (gaCoord w.addr = s.fab.coord ∨ w.stage = 1 ∨ s.scr.now < w.deadline + 100000) →
      exec (.remoteWaitExpiry c party) s = .next s) ∧
    (∀ t0 q, k.stn.active = false → afind k.is.holds q = some t0 → t0 + s.waitLimit ≤ s.scr.now →
      ((q = 2 ∨ q = 3) → ∃ t, exec (.bankHoldTimeout c) s = .next t ∧ timedOut s t c k.bundleIndex) ∧
      (q = 1 → ∃ t, exec (.waitLimitExpiry c 7) s = .next t ∧ (t.core c).is.stopped = true ∧ (t.core c).sp = k.sp) ∧
      (q = 4 → s.nextAns c 0 true = none → ∃ t, exec (.waitLimitExpiry c 0) s = .next t ∧
        (t.core c).is.stopped = true ∧ (t.core c).sp = k.sp)) ∧
    (k.stn.active = false → (∀ q t0, (q = 2 ∨ q = 3) → afind k.is.holds q = some t0 → s.scr.now < t0 + s.waitLimit) →
      exec (.bankHoldTimeout c) s = .next s)

/-! ### The sequencer -/

/-- R177, R178, R180, R181, R185, R197: the registers take a descriptor whose rows are clean seven cycles after the
last row; a front that is due starts once its wait is over and its descriptor passes the checks, and with another row
stops the core; the next descriptor of a chain is read when its front ends; a stencil completes, with its post, when
everything that it issued is visible. R179, R187: in a cycle in which the sequencer may issue, the front's operation
that nothing holds leaves with the bundle that it is in, and products count; where neither stream has an operation
that may issue, the cycle counts against the part that is held. MODEL'S CHOICE: the readings of log entries 50 to 58.
-/
def Obligations.sequencer : Prop :=
  (∀ (s : State) (c : Nat), c < nCores →
    let k := s.core c
    let cyc := s.cyc c
    let d := k.sdesc
    (∀ r rest, takeFirst (fun r : Reader => r.kind == 0 && r.ready cyc) k.readers = some (r, rest) →
      ∃ t, exec (.stldDone c) s = .next t ∧ (t.core c).readers = rest ∧
        (r.poisoned = none → (t.core c).stn.regsAt = r.lastAt + 7 ∧
          (∀ j, j < 128 → (t.core c).reg (rStnDesc + 4 * j) = bits r.value (32 * j + 31) (32 * j)) ∧
          
          (t.core c).stn.phase = (if k.stn.active = true ∧ k.stn.phase = 1 ∧ r.go = true then 2 else k.stn.phase)) ∧
        (∀ row, r.poisoned = some row → (t.core c).is.stopped = true)) ∧
    (s.ctl.st = stRunning → k.frontDue cyc = true → sdWait d = false ∨ released k.stn.wait = true →
      (∀ j, 1 ≤ j → j ≤ 6 → k.sPending (sdCreg d j) = false) →
      (k.stencilViol s.fab.coord c d (k.levels d) = none → ∃ t, exec (.stencilFrontStart c) s = .next t ∧
        (t.core c).stn.wait = none ∧
        (t.core c).stn.epis.length + (t.core c).stn.done.length = k.stn.epis.length + k.stn.done.length + 1 ∧
        (sdMatrix d = true → (t.core c).stn.phase = 3 ∧ ∃ f, (t.core c).stn.front = some f ∧ f.d = d ∧
          f.base = k.genBases d ∧ f.cnt = k.levels d)) ∧
      (∀ v, k.stencilViol s.fab.coord c d (k.levels d) = some v → ∃ t, exec (.stencilFrontStart c) s = .next t ∧
        (t.core c).is.stopped = true ∧ (t.core c).stn.front = k.stn.front)) ∧
    (s.ctl.st = stRunning → k.frontDue cyc = true → sdWait d = true → k.stn.wait = none →
      k.resolves (sdWaitH d) 0 4 false [spSync] = true → k.htAddr (sdWaitH d) % 4 = 0 →
      gaCoord (k.htAddr (sdWaitH d)) = s.fab.coord → (semPlace (gaOff (k.htAddr (sdWaitH d)))).isSome = true →
      let dl := s.scr.now + s.waitLimit
      ∃ t, exec (.stencilFrontStart c) s = .next t ∧
        (t.core c).stn.wait = some ⟨k.htAddr (sdWaitH d), sdCount d, false, s.scr.now, dl, 0, 0⟩ ∧
        t.atHome ⟨c, 2, none, gaOff (k.htAddr (sdWaitH d)), 1, sdCount d, dl, 0⟩ (k.htAddr (sdWaitH d))) ∧
    (k.frontDue cyc = false → exec (.stencilFrontStart c) s = .next s) ∧
    (∀ f, k.stn.front = some f → k.stn.active = true → k.is.stopped = false → k.stn.frontEnded = true →
      f.lastOp < k.is.clk → sdChain f.d = true → ∃ t, exec (.stencilChainLoad c) s = .next t ∧ (t.core c).stn.front = none ∧
        (t.core c).stn.phase = 1 ∧
        (t.core c).readers = k.readers ++ [⟨1, 0, sdChainRow f.d, 8, false, [], 0, none⟩]) ∧
    (∀ x rest, k.stn.done = x :: rest → x.visible k = true →
      (x.post = none → ∃ t, exec (.stencilComplete c) s = .next t ∧ (t.core c).stn.done = rest ∧
        (t.core c).reg rStnDone = satAdd 32 (k.reg rStnDone) 1 ∧ t.semIn = s.semIn) ∧
      (∀ a, x.post = some a → s.postReady c ⟨a, x.serial⟩ = true → gaCoord a = s.fab.coord →
        (semPlace (gaOff a)).isSome = true → ∃ t, exec (.stencilComplete c) s = .next t ∧
          (t.core c).stn.done = rest ∧ t.atHome ⟨c, 12, none, gaOff a, 0, 1, 0, noSerial⟩ a)) ∧
    ∀ x rest, k.stn.done = x :: rest → x.visible k = false → exec (.stencilComplete c) s = .next s) ∧
  (∀ (s : State) (c : Nat) (f : Front) (o : FrontOp) (ops : List FrontOp), c < nCores → s.ctl.st = stRunning →
    (s.core c).mayIssue = true → (s.core c).stn.active = true → (s.core c).stn.front = some f → f.ops = o :: ops →
    let k : Core := { s.core c with stn := (s.core c).stn.retire (s.core c).is.serial 3 }
    let x := k.streamInst
    (k.frontOp = some o → ops ≠ [] →
      ((s.setCore c k).tryBundle c (k.genBundle (some o) x) k.bundleIndex true).2 = true →
        ∃ t g, exec (.sequencerIssue c) s = .next t ∧ (t.core c).stn.front = some g ∧ g.ops = ops ∧
          g.p = f.p + (if o.mat.mop = 1 then 1 else 0)) ∧
    (k.frontOp = none → x = none → k.masksNow none = none → ∃ t, exec (.sequencerIssue c) s = .next t ∧
      (t.core c).reg rStnHoldM = satAdd 32 ((s.core c).reg rStnHoldM) 1 ∧ (t.core c).mx = (s.core c).mx ∧
      (t.core c).is.next = (s.core c).is.next))

/-! ### Bay cycles, clocks, sanding -/

/-- R60, R64, R66, R362: in a cycle of bay b its count and each pipeline clock that no collision froze advance by one,
no effect whose time has come stays under way, and the meter's rotor moves; the requests that it grants fit under the
ceiling with the base. MODEL'S CHOICE: what comes with the cycle (log entries 45, 60). -/
def Obligations.bay_cycle : Prop :=
  (∀ (s : State) (b : Nat) (x : BayCycle), b < 32 → s.ctl.st ≠ stOff → keysRise s.cores = true →
    ∃ t, exec (.tokenMeterCycle b x) s = .next t ∧ (t.bay b).cyc = (s.bay b).cyc + 1 ∧
      (t.bay b).rotor = ((s.bay b).rotor + 1) % 56 ∧ (∀ d, d ≠ b → t.bay d = s.bay d) ∧ t.pending = s.pending ∧
      t.scr = s.scr ∧
      ∀ c ∈ s.present b, (t.core c).is.tried = false ∧ (t.core c).is.frozen = false ∧
        (t.core c).is.clk = (if (s.core c).is.frozen then (s.core c).is.clk else (s.core c).is.clk + 1) ∧
        ∀ d ∈ (t.core c).inflight, d.ripe (t.core c).is.clk (t.cyc c) = false) ∧
  (∀ (s : State) (b : Nat) (x : BayCycle), b < 32 → s.ctl.st = stOff → exec (.tokenMeterCycle b x) s = .next s) ∧
  ∀ (ceil base : Nat) (reqs : List (Nat × Nat)), base ≤ ceil →
    let r := meterGrants ceil reqs base []
    r.1 ≤ ceil ∧ r.2.map (·.1) = reqs.map (·.1) ∧
      r.1 = (reqs.zip r.2).foldl (fun n x => if x.2.2 then n + x.1.2 else n) base

/-- R356, R360, R363 to R366: a droop lowers a region to no less than its floor and the recovery brings it back to its
target; an undervoltage and a failing replica path are fatal; each interval decides one step at most for a bay, down
for heat, replica warnings or power, up after ten quiet intervals, and a pending step is taken when no core of the bay
has still to acknowledge; at 115 °C the device is switched off. MODEL'S CHOICE: the quiet count and the meeting
of decisions (log entry 85). -/
def Obligations.clocks_and_governor : Prop :=
  ∀ (s : State) (r : Nat),
    (∀ mhz, r < 37 → s.ctl.st ≠ stOff → s.floorOf r ≤ mhz → mhz < s.target r →
      ∃ t, exec (.supplyDroop r mhz) s = .next t ∧ (t.region r).mhz = mhz ∧ (t.region r).droop = true ∧
        (t.region r).fmin = min (s.region r).fmin mhz ∧ ∀ d, d ≠ r → t.region d = s.region d) ∧
    (r < 37 → s.ctl.st ≠ stOff → (s.region r).droop = true → ∃ t, exec (.supplyRecovery r) s = .next t ∧
      (t.region r).mhz = s.target r ∧ (t.region r).droop = false) ∧
    (r < 37 → s.ctl.st ≠ stOff → ∃ t, exec (.regionUv r) s = .next t ∧ fatalSeen s t evRegionUv 1 0) ∧
    (r < 37 → s.ctl.st ≠ stOff → ∃ t, exec (.replicaFail r) s = .next t ∧ fatalSeen s t evReplicaFail 1 0) ∧
    (∀ p, r < 32 → (s.bay r).pstep = some p →
      ((s.bay r).unacked = [] ∨ s.ctl.st ≠ stRunning → ∃ t, exec (.bayStepApply r) s = .next t ∧
        (t.bay r).step = p ∧ (t.bay r).pstep = none ∧ t.dreg rGovStep = satAdd 32 (s.dreg rGovStep) 1 ∧
        (t.region r).mhz = (if (s.region r).droop then max (floorMhz p) (min (s.region r).mhz (targetMhz p))
          else targetMhz p) ∧ (t.bay r).cyc = (s.bay r).cyc) ∧
      ((s.bay r).unacked ≠ [] → s.ctl.st = stRunning → exec (.bayStepApply r) s = .next s)) ∧
    (∀ x : Sensors, s.ctl.st ≠ stOff → hotLimit x = true → ∃ t, exec (.governorEvaluation x) s = .next t ∧
      t.ctl.st = stOff ∧ t.mem = Tiers.init ∧ t.cores = [] ∧ t.pending = s.pending) ∧
    ∀ (x : Sensors) (deg : Nat), r < 32 → s.ctl.st ≠ stOff → s.regions ≠ [] → s.ctl.st ≠ stRunning →
      (s.bay r).pstep = none → (∀ g, g < 37 → ∃ h, x.hot[g]? = some (some h) ∧ h < 105) → x.hot[r]? = some (some deg) →
      let y := s.bay r
      let warn := (s.region r).warn
      let down := s.tempHi ≤ deg ∨ s.replThresh < warn ∨ s.capWatts * 103 < x.power * 100
      let quiet := deg ≤ s.tempLo ∧ warn ≤ s.replThresh ∧ x.power * 100 ≤ s.capWatts * 95
      ∃ t, exec (.governorEvaluation x) s = .next t ∧ (t.region r).temp = deg ∧ (t.region r).warn = 0 ∧
        bits (t.dreg 0x30000C) 15 0 = min x.power 65535 ∧
        (down → (t.bay r).step = if y.step < 3 then y.step + 1 else y.step) ∧
        (¬down → (t.bay r).step = if 0 < y.step ∧ quiet ∧ 9 ≤ y.quiet then y.step - 1 else y.step)

/-- R379 to R383: a sanding pass starts on an idle core whose arrays are empty, in a window that still holds a pass,
or on a spare; after 82,000 cycles it counts, and a mismatch on an active core is fatal and stops it; it is aborted
300 tk before the planned start and at a halt; a core without a pass for a day is reported. MODEL'S CHOICE: one
decision a window (log entry 76). -/
def Obligations.sanding : Prop :=
  ∀ (s : State) (c : Nat),
    let k := s.core c
    (c < nCores → k.sand = none → s.ctl.st = stIdle → s.sandActive = true → k.sandable = true →
      ∃ t, exec (.sandingPassStart c) s = .next t ∧ (t.core c).sand = some 0) ∧
    (c < nCores → k.sand = none → s.ctl.st = stRunning → k.pnl.window = true → k.pnl.phase = 1 →
      k.is.stopped = false → s.ctl.halt = false → s.sandActive = true →
      (s.passTicks c ≤ s.remaining c → k.sandable = true → ∃ t, exec (.sandingPassStart c) s = .next t ∧
        (t.core c).sand = some 0 ∧ (t.core c).pnl.window = false) ∧
      (s.remaining c < s.passTicks c → ∃ t, exec (.sandingPassStart c) s = .next t ∧ (t.core c).sand = none ∧
        (t.core c).pnl.window = false ∧ t.dreg rSandSkip = satAdd 32 (s.dreg rSandSkip) 1)) ∧
    (∀ j, j < 256 → c = nCores + j → s.ctl.st ≠ stOff → s.sandSpare = true →
      (∀ x ∈ s.sand.spares, x.1 / 8 ≠ j / 8) → j % 8 < (s.spareCores (j / 8)).length →
      ∃ t, exec (.sandingPassStart c) s = .next t ∧ afind t.sand.spares j = some 0) ∧
    (∀ n ok, c < nCores → k.sand = some n →
      (n < 82000 → exec (.sandingPassDone c ok) s = .next s) ∧
      (82000 ≤ n → ∃ t, exec (.sandingPassDone c ok) s = .next t ∧ (t.core c).sand = none ∧
        t.dreg rSandPass = satAdd 32 (s.dreg rSandPass) 1 ∧
        (ok = true → (t.core c).sandLast = s.scr.now) ∧
        (ok = false → (t.core c).is.stopped = true ∧ fatalSeen s t evSandFind 2 c ∧
          t.dreg rSandFind = satAdd 32 (s.dreg rSandFind) 1))) ∧
    (c < nCores → s.ctl.st = stRunning → s.ctl.halt = true ∨ s.remaining c ≤ 300 →
      (k.sand.isSome = true → ∃ t, exec (.sandingAbort c) s = .next t ∧ (t.core c).sand = none ∧
        t.dreg 0x41000C = satAdd 32 (s.dreg 0x41000C) 1 ∧ (t.core c).sc = k.sc ∧ (t.core c).ve = k.ve ∧
        (t.core c).mx = k.mx) ∧
      (k.sand = none → exec (.sandingAbort c) s = .next s)) ∧
    (c < nCores → s.ctl.st ≠ stOff → s.scr.running = true → afind s.sand.overdue c = none →
      let since := if k.sandLast = 0 then s.sand.since else k.sandLast
      (since + 86400 * 10 ^ 9 < s.scr.now → ∃ t, exec (.sandingOverdueCheck c) s = .next t ∧
        t.dreg rSandOverdue = satAdd 32 (s.dreg rSandOverdue) 1 ∧
        ∃ e ∈ t.er.q, e.code = evSandOverdue ∧ e.payload = [c]) ∧
      (s.scr.now ≤ since + 86400 * 10 ^ 9 → exec (.sandingOverdueCheck c) s = .next s))

/-! ### Ports and screed time -/

/-- R325 to R328, R331, R346, R347, R350, R353: a listed port trains at the lower protocol, with the lanes that
training gives it, and is ACTIVE when the neighbour is the one of the manifest; a failure disables it with its reason;
a lost signal takes it down, with the job fault where it joins the partition; a lane that the FEC finds degraded moves to the
spare once, through REPAIR. MODEL'S CHOICE: the lanes chosen where R326 leaves a choice (log entry 71), when REASON is GEN
(72), and the millisecond of R327 (75). -/
def Obligations.port_events : Prop :=
  ∀ (s : State) (p : Nat), p < 13 →
    let x := s.port p
    (x.alive = true → ∃ t, exec (.portSignalLoss p) s = .next t ∧ (t.port p).st = 0 ∧ (t.port p).lanes = 0 ∧
      (t.port p).gen = 0 ∧ (∃ e ∈ t.er.q, e.code = evPortDown ∧ e.payload = [p]) ∧
      (t.port p).again = (x.up || x.again) ∧
      (x.up = true → x.nbr ≠ s.fab.coord → s.inPartition x.nbr = true → s.ctl.st = stRunning → s.ctl.fault = none →
        t.ctl.fault = some ⟨6, s.fab.coord, 0, p, s.scr.ns, none⟩)) ∧
    (x.alive = false → exec (.portSignalLoss p) s = .next s) ∧
    (∀ g, x.st ≤ 1 → x.listed = true → x.disable = false →
      let y := if x.st = 0 then { x with st := 1, detectAt := s.scr.ns } else x
      exec (.portDetect p g) s = .next (s.setPort p (if g = 0 then y else { y with st := 2, gen := min g 3 }))) ∧
    (∀ g, 1 < x.st ∨ x.listed = false ∨ x.disable = true → exec (.portDetect p g) s = .next s) ∧
    (∀ f id, x.detectAt + x.trainLimit < s.scr.ns → ∀ i : Instr, (i = .portTrainDone p f ∧ x.st = 2 ∨
        i = .portIdent p id ∧ x.st = 3) → ∃ t, exec i s = .next t ∧ (t.port p).st = 5 ∧ (t.port p).reason = 5) ∧
    (∀ f, x.st = 2 → s.scr.ns ≤ x.detectAt + x.trainLimit → ∃ t, exec (.portTrainDone p f) s = .next t ∧ match trainedLanes x.gen f with
      | some (n, l) => (t.port p).st = 3 ∧ (t.port p).lanes = n ∧ (t.port p).spare = l ∧ (t.port p).gen = x.gen
      | none => (t.port p).st = 5 ∧ (t.port p).reason = 6 ∧ (t.port p).lanes = 0) ∧
    (1 ≤ x.st → x.st ≤ 3 → x.detectAt + x.trainLimit ≤ s.scr.ns → ∃ t, exec (.trainTimeout p) s = .next t ∧
      (t.port p).st = 5 ∧ (t.port p).reason = 5) ∧
    (x.st = 0 ∨ 3 < x.st ∨ s.scr.ns < x.detectAt + x.trainLimit → exec (.trainTimeout p) s = .next s) ∧
    (∀ id, x.st = 3 → s.scr.ns ≤ x.detectAt + x.trainLimit → ∃ t, exec (.portIdent p id) s = .next t ∧
      (t.port p).foundCoord = id.coord % 4096 ∧ (t.port p).foundPort = id.port % 16 ∧
      (if id.devid = x.nbrId ∧ id.coord = x.nbr ∧ id.port = x.nbrPort then
        (if id.gen = x.nbrGen then (t.port p).st = 4 ∧ (t.port p).lanes = x.lanes
          else (t.port p).st = 5 ∧ (t.port p).reason = 4)
        else (t.port p).st = 5 ∧ (t.port p).reason = 3)) ∧
    (∀ lane sym cw, lane < 17 →
      let n := x.corrected s.scr.ns lane + sym
      (x.st = 4 → ∃ t, exec (.laneRepair p ⟨lane, sym, cw⟩) s = .next t ∧
        t.dreg (rFecCe p) = satAdd 32 (s.dreg (rFecCe p)) cw ∧
        if 65536 < n ∧ x.gen = 3 ∧ x.spare = 31 ∧ lane < 16 then
          (t.port p).st = 6 ∧ (t.port p).spare = lane ∧ (t.port p).lastLane = lane
        else (t.port p).st = 4 ∧ (t.port p).spare = x.spare) ∧
      (x.st = 6 → ∃ t, exec (.laneRepair p ⟨lane, sym, cw⟩) s = .next t ∧ (t.port p).st = 4 ∧ (t.port p).spare = x.spare ∧
        (t.port p).txq = [] ∧ bits (t.dreg (rLane p)) 15 8 = satAdd 8 (bits (s.dreg (rLane p)) 15 8) 1 ∧
        ∃ e ∈ t.er.q, e.code = evLaneRepair ∧ e.payload = [p + 16 * x.lastLane]) ∧
      (x.st ≠ 4 → x.st ≠ 6 → exec (.laneRepair p ⟨lane, sym, cw⟩) s = .next s)) ∧
    (∀ kind, kind < 3 → x.st = 4 → ∃ t, exec (.groupReplay p kind) s = .next t ∧ t.fab = s.fab ∧
      t.dreg (rReplay p) = satAdd 32 (s.dreg (rReplay p)) 1 ∧
      t.dreg (rFecUe p) = if kind = 1 then satAdd 32 (s.dreg (rFecUe p)) 1 else s.dreg (rFecUe p)) ∧
    (s.portOpen = true → s.writable = true → x.disable = false → ∃ t, exec (.portDisable p) s = .next t ∧
      (t.port p).st = 5 ∧ (t.port p).reason = 7 ∧ (t.port p).disable = true) ∧
    (s.portOpen = true → s.writable = false → x.disable = false →
      exec (.portDisable p) s = .next (s.send (.error 3 (s.mmioAddr (0x10000000 + rPort p 8))))) ∧
    (s.portOpen = true → x.listed = true → x.disable = false → (x.st = 0 ∨ x.st = 5) →
      ∃ t, exec (.retrain p) s = .next t ∧ (t.port p).st = 0 ∧ (t.port p).reason = 0)

/-- R21, R339, R342, R347, R351: a heartbeat leaves every 10,000 tk with t1 and the echo of the last one; one that
arrives is kept for its echo, and one with an echo from the parent gives θ and δ, starts the counter or corrects it by
slewing, and after 16 small offsets in a row the device is LOCKED; the root starts its own counter at 1 after 50 ms;
four missing heartbeats take the port down. MODEL'S CHOICE: how theta, delta and a correction round (log entry 73), the
count before the first lock (107), and the local times of the first exchange (110). -/
def Obligations.screed_exchange : Prop :=
  ∀ (s : State) (p : Nat), p < 13 →
    let x := s.port p
    (x.st = 4 → x.hbSent + 10000 ≤ (s.refCount : Int) → ∃ t, exec (.heartbeatSend p) s = .next t ∧
      t.out = s.out ++ [.fabric p 0x40 s.fab.coord x.nbr 0 (16 * s.scr.now) 0 0 [] false
        [if s.scr.locked then 1 else 0, x.hbT1, x.hbT4]] ∧
      (t.port p).hbSent = s.refCount ∧ (t.port p).txBytes = x.txBytes + 32 ∧ t.scr = s.scr) ∧
    (x.st ≠ 4 ∨ (s.refCount : Int) < x.hbSent + 10000 → exec (.heartbeatSend p) s = .next s) ∧
    (∀ h : HeartbeatIn, x.st = 4 → ∃ u, exec (.heartbeat p { h with echo := false }) s = .next u ∧
      u.port p = { x with rxBytes := x.rxBytes + 32, hbT1 := h.t1, hbT4 := s.localTime h, hbSeen := (s.refCount : Int),
                          hbMissed := 0, nbrLocked := h.locked } ∧
      u.scr.now = s.scr.now ∧
      (h.echo = true → u.heeds p = false → exec (.heartbeat p h) s = .next u) ∧
      (h.echo = true → u.heeds p = true →
        let t2 := s.localTime h
        let th := (((t2 : Int) - h.t1) - ((h.t4 : Int) - h.t3)) / 2
        let de := (((t2 : Int) - h.t1) + ((h.t4 : Int) - h.t3)) / 2
        ∃ t, exec (.heartbeat p h) s = .next t ∧ t.fab.theta = wrapInt 16 th ∧ t.fab.delay = wrapInt 16 de ∧
          (u.scr.running = false → t.scr.now = (((h.t1 : Int) + de) / 16).toNat % 2 ^ 64 ∧ t.scr.running = true ∧
            t.scr.locked = true) ∧
          (u.scr.running = true → u.isRoot = false → t.scr.now = u.scr.now ∧ t.scr.slew = -((th + 8) / 16) ∧
            t.scr.good = (if th.natAbs ≤ 8 then u.scr.good + 1 else 0) ∧
            t.scr.locked = (u.scr.locked || decide (16 ≤ t.scr.good))))) ∧
    (s.ctl.st ≠ stOff → s.isRoot = true → s.scr.running = false → s.fab.upAt + 50000000 ≤ s.scr.ns →
      ∃ t, exec .rootTimeStart s = .next t ∧ t.scr.now = 1 ∧ t.scr.running = true ∧ t.scr.locked = true ∧
        t.sand.since = 1 ∧ (s.ctl.st = stBooting → s.ctl.bootStep = 13 → t.ctl.st = stIdle)) ∧
    (s.isRoot = false ∨ s.scr.running = true → exec .rootTimeStart s = .next s) ∧
    let missing := ((s.refCount : Int) - x.hbSeen).toNat / 10000
    (x.st = 4 → ∃ t, exec (.heartbeatTimeout p) s = .next t ∧
      t.dreg (rHbMiss p) = satAdd 32 (s.dreg (rHbMiss p)) (missing - x.hbMissed) ∧
      (t.port p).st = if 4 ≤ missing then 0 else 4) ∧
    (x.st ≠ 4 → exec (.heartbeatTimeout p) s = .next s)

/-! ### Transactions -/

/-- R290, R333 to R338, R345, R350: a request for this device's job takes a place until it is answered and acts on its
memory, its semaphore or its mailbox; where no place is free it waits in the port's buffer; one of another partition or epoch
counts and does not act; one for another device passes on through the port of R333. MODEL'S CHOICE: the bits of a mailbox
address (log entry 15), the length of the buffer (19), and the acknowledgement of a discarded record (22). -/
def Obligations.fabric_requests : Prop :=
  ∀ (s : State) (h : FabHeader),
    let a := h.addr
    let peak := max s.fab.inbPeak (s.fab.inb + 1)
    let old := s.mem.held
    (∀ e, s.takesReq h = true →
      let hd : Held := ⟨(2048 + h.src, h.tag), a, none, e⟩
      ∃ t, exec (.rdLine h e) s = .next t ∧ t.fab.inbPeak = peak ∧ t.mem.hbm = s.mem.hbm ∧ t.mem.ddr = s.mem.ddr ∧
        t.sem = s.sem ∧
        (∀ code, s.lineRefusal a = some code → t.fab.inb = s.fab.inb ∧ answeredWith s t h 0x25 a [] false [code]) ∧
        (s.lineRefusal a = none → gaSpace a = spDdr →
          if s.mustWait old hd then t.mem.held = old ++ [hd] ∧ t.fab.inb = s.fab.inb + 1
          else t.fab.inb = s.fab.inb ∧
            answeredWith s t h 0x21 a (s.lineAt a).1 ((s.lineAt a).2 || eccBad e) [eccNo e]) ∧
        (s.lineRefusal a = none → gaSpace a = spSp → s.mustWait old hd = false → t.fab.inb = s.fab.inb ∧
          answeredWith s t h 0x21 a (s.readSpLine a).2.1 (s.readSpLine a).2.2 [0]) ∧
        (s.lineRefusal a = none → gaSpace a = spHbm → s.outstanding < 32768 → t.fab.inb = s.fab.inb + 1 ∧
          ∃ m ∈ t.mem.merges, m.line = s.hbmLineOf a ∧ (2048 + h.src, h.tag, a) ∈ m.joiners)) ∧
    (∀ bs b, s.takesReq h = true → s.lineRefusal a = none →
      let hd : Held := ⟨(2048 + h.src, h.tag), a, some (bs, b), .clean⟩
      ∃ t, exec (.wrLine h bs b) s = .next t ∧ t.fab.inbPeak = peak ∧ t.sem = s.sem ∧
        (s.mustWait old hd = true → t.mem.held = old ++ [hd] ∧ t.fab.inb = s.fab.inb + 1 ∧ t.mem.hbm = s.mem.hbm ∧
          t.mem.ddr = s.mem.ddr) ∧
        (s.mustWait old hd = false → gaSpace a ≠ spSp → bs.length = 512 → s.stackOut a = false →
          gaSpace a = spHbm ∨ s.sec.ddrKeys = true →
          t.lineAt a = (bs, b) ∧ t.fab.inb = s.fab.inb ∧ answeredWith s t h 0x22 a [] false []) ∧
        (s.mustWait old hd = false → gaSpace a = spSp → t.fab.inb = s.fab.inb + 1 ∧
          (t.core (gaOff a >>> 20)).ext.length = (s.core (gaOff a >>> 20)).ext.length + 8)) ∧
    (∀ kind n dl, s.takesReq h = true → kind < 4 → gaSpace a = spSync → (semPlace (gaOff a)).isSome = true → ∃ t,
      exec (.semOp h kind n dl) s = .next t ∧ t.fab.inb = s.fab.inb + 1 ∧ t.sem = s.sem ∧
      t.atHome ⟨0, 8, some (h.src, h.tag), gaOff a, if kind = 3 then 0 else kind,
        if kind = 3 then -((n % 2 ^ 32 : Nat) : Int) else ((n % 2 ^ 32 : Nat) : Int), dl, noSerial⟩ a) ∧
    (∀ bs ps, s.takesReq h = true → gaSpace a = spSp → gaOff a >>> 20 < 1792 → bits (gaOff a) 19 16 < 4 →
      let c := gaOff a >>> 20
      let m := bits (gaOff a) 19 16
      ∃ t, exec (.mbxRec h bs ps) s = .next t ∧
        (if ((s.core c).mbx m).closed then t.fab.inb = s.fab.inb ∧ (t.core c).ext = (s.core c).ext ∧
            (t.core c).reg (rMbxDisc m) = satAdd 32 ((s.core c).reg (rMbxDisc m)) 1 ∧ answeredWith s t h 0x26 a [] false []
          else t.fab.inb = s.fab.inb + 1 ∧ (∀ x ∈ (s.core c).ext, x ∈ (t.core c).ext) ∧
            (t.core c).ext.length = (s.core c).ext.length + (gaOff a % 64 + bs.length + 63) / 64)) ∧
    (∀ e, s.mine h = true → 16384 ≤ s.fab.inb →
      ((s.port h.port).reqBuf.length < Config.reqBuffer → ∃ t, exec (.rdLine h e) s = .next t ∧
        (t.port h.port).reqBuf = (s.port h.port).reqBuf ++ [{ op := 0x01, h, ecc := e }] ∧ t.mem = s.mem ∧
        t.cores = s.cores ∧ t.fab.inb = s.fab.inb) ∧
      (Config.reqBuffer ≤ (s.port h.port).reqBuf.length → exec (.rdLine h e) s = .next s)) ∧
    (headerOk h = true → (s.port h.port).st = 4 → (s.port h.port).reqBuf = [] →
      (h.dst = s.fab.coord → h.pid ≠ s.pid → ∀ e, ∃ t, exec (.rdLine h e) s = .next t ∧ t.mem = s.mem ∧
        t.dreg 0x200024 = satAdd 32 (s.dreg 0x200024) 1 ∧ t.out = s.out) ∧
      (h.dst = s.fab.coord → h.pid = s.pid → h.epoch ≠ s.epochNo → ∀ e, ∃ t, exec (.rdLine h e) s = .next t ∧
        t.mem = s.mem ∧ t.dreg 0x200018 = satAdd 32 (s.dreg 0x200018) 1 ∧ answeredWith s t h 0x25 a [] false [3]) ∧
      (h.dst ≠ s.fab.coord → ∀ e p, s.leaves 0x01 h.dst 0 = some p → ∃ t, exec (.rdLine h e) s = .next t ∧
        t.out = s.out ++ [.transit p 0x01 h [] [] []] ∧ t.mem = s.mem ∧ t.cores = s.cores))

/-- R246, R258, R260, R265, R271, R272, R277, R337, R338, R348, R352: a response goes to the request that waits with
its tag; credits and close notices reach their route; the first JOB_FAULT of a broadcast halts a RUNNING device, and
copies are dropped; a reserved opcode counts. MODEL'S CHOICE: the bits of a route's address (log entry 15). -/
def Obligations.fabric_responses : Prop :=
  ∀ (s : State) (h : FabHeader), s.mine h = true →
    (∀ r rest l bs b, s.asked h [0] = some (r, rest) → (s.core r.core).lineOf r.x = some l →
      (∃ t, exec (.rdData h bs b) s = .next t ∧ t.fab.reqs = rest ∧
        (t.core r.core).lineOf r.x = some { l with data := rowsOfLine bs b, stage := 2, back := s.cyc r.core }) ∧
      ∃ t, exec (.wrAck h) s = .next t ∧ t.fab.reqs = rest ∧ (t.core r.core).lineOf r.x = some { l with stage := 2 }) ∧
    (∀ r rest b, s.asked h [1, 2] = some (r, rest) → ∃ t, exec (.semDone h b) s = .next t ∧ t.fab.reqs = rest ∧
      t.semAns = if r.kind = 2 then s.semAns else s.semAns ++ [⟨2048 + h.src, r.core, r.x, if b then 1 else 0⟩]) ∧
    (∀ r rest w, s.asked h [1] = some (r, rest) → (s.core r.core).waitOf r.x = some w → w.stage = 0 →
      ∃ t, exec (.retry h) s = .next t ∧ t.fab.reqs = rest ∧
        (t.core r.core).waitOf r.x = some { w with stage := 2, resendAt := s.scr.now + 64 }) ∧
    (∀ r rest code, s.asked h [0, 1, 2, 3] = some (r, rest) →
      (∀ l, r.kind = 0 → (s.core r.core).lineOf r.x = some l → ∃ t, exec (.err h code) s = .next t ∧ t.fab.reqs = rest ∧
        (t.core r.core).lineOf r.x = some { l with bad := true }) ∧
      (r.kind ≠ 0 → ∃ t, exec (.err h code) s = .next t ∧ t.fab.reqs.length ≤ rest.length ∧
        (r.kind = 1 → (t.core r.core).waitOf r.x = none) ∧ (t.core r.core).is.stopped = true)) ∧
    (∀ r rest, s.asked h [3] = some (r, rest) → ∃ t, exec (.mbxAck h) s = .next t ∧ t.fab.reqs = rest ∧
      t.cores = s.cores ∧ t.mem = s.mem) ∧
    (∀ n, s.asked h n = none → (n = [0] → ∃ t, exec (.wrAck h) s = .next t ∧ t.cores = s.cores ∧
        t.fab.reqs = s.fab.reqs) ∧
      (n = [3] → ∃ t, exec (.mbxAck h) s = .next t ∧ t.cores = s.cores ∧ t.fab.reqs = s.fab.reqs)) ∧
    (∀ c r b, routeOf h.addr = some (c, r) →
      ((s.port h.port).reqBuf = [] → ∃ t, exec (.mbxCredit h b) s = .next t ∧
        (t.core c).route r = { (s.core c).route r with credit := ((s.core c).route r).credit + b }) ∧
      ∃ t, exec (.close h) s = .next t ∧ (t.core c).route r =
        { (s.core c).route r with st := if ((s.core c).route r).st = 1 then 2 else ((s.core c).route r).st }) ∧
    (∀ sn reason tk,
      ((h.src, sn % 65536, h.epoch) ∉ s.fab.seen → ∃ t, exec (.jobFault h sn reason tk) s = .next t ∧
        t.dreg 0x20002C = satAdd 32 (s.dreg 0x20002C) 1 ∧ (h.src, sn % 65536, h.epoch) ∈ t.fab.seen ∧
        (s.ctl.st = stRunning → s.ctl.fault = none → t.ctl.fault = some ⟨reason, h.src, 0, 0, s.scr.ns, none⟩ ∧
          t.ctl.halt = true)) ∧
      ((h.src, sn % 65536, h.epoch) ∈ s.fab.seen → ∃ t, exec (.jobFault h sn reason tk) s = .next t ∧
        t.ctl = s.ctl ∧ t.cores = s.cores ∧ t.fab.seen = s.fab.seen ∧ t.out = s.out)) ∧
    ∀ op, knownOps.contains op = false → ∃ t, exec (.unsupportedTransaction h op) s = .next t ∧
      t.dreg 0x200020 = satAdd 32 (s.dreg 0x200020) 1 ∧ t.cores = s.cores ∧ t.mem = s.mem ∧
      t.fab.reqs = s.fab.reqs

/-! ### Power and the recorder -/

/-- R393, R394, R427 to R433: with the rails up a device boots, cold: bad code copies stop it at steps 4 and 5,
missing keys too; with good ones, no bad core and a plumbed crossing it reaches step 13, its bays at step 0 of 2,100
MHz and its DDR5 keys made. A second failure of the rails leaves them off. After the lock timeout it is IDLE all the
same. R366, R367, R405, R426, R445, R447, R323, R373: with the input power gone, the coolant flow lost or a DDR5 latch
open the device is OFF: its memories and cores are gone, what the security block stores stays. The link trains with
all lanes and loses one at a time. The watchdog and a failed scrim module are fatal. MODEL'S CHOICE: that a boot's
findings come with its command (log entry 7). -/
def Obligations.power : Prop :=
  (∀ (s : State) (e : BootEnv),
    (∀ row ∈ ([(.pwrGoodAssert e, 0), (.railRetry e, 1)] : List (Instr × Nat)),
      (s.ctl.st = stOff → s.rails = row.2 →
        (e.railsOk = false → exec row.1 s = .next { s with rails := row.2 + 1 }) ∧
        (e.railsOk = true → pickCopy e.primerA e.primerB = none → ∃ t, exec row.1 s = .next t ∧
          t.ctl.st = stFaulted ∧ t.ctl.bootStep = 4 ∧ t.ctl.bootFail = true ∧ t.sec.boot = 1) ∧
        (e.railsOk = true → (pickCopy e.primerA e.primerB).isSome = true →
          ((s.sec.idk && s.sec.dtk) = false → ∃ t, exec row.1 s = .next t ∧ t.ctl.st = stFaulted ∧
            t.ctl.bootStep = 5 ∧ t.sec.boot = 3) ∧
          ((s.sec.idk && s.sec.dtk) = true → pickCopy e.fwA e.fwB = none → ∃ t, exec row.1 s = .next t ∧
            t.ctl.st = stFaulted ∧ t.ctl.bootStep = 5 ∧ t.sec.boot = 2) ∧
          ((s.sec.idk && s.sec.dtk) = true → (pickCopy e.fwA e.fwB).isSome = true → e.bist = [] → e.factoryOut = [] →
            e.bistRows = [] → e.factoryRows = [] → e.records = [] → s.pat.env = none → e.plumbFail = [] →
            s.scr.running = false →
            ∃ t, exec row.1 s = .next t ∧ t.ctl.st = stBooting ∧ t.ctl.bootStep = 13 ∧ t.ctl.bootCause = 0 ∧
              t.sec.ddrKeys = true ∧ t.pending = s.pending ∧
              ∀ b, b < 32 → (t.bay b).step = 0 ∧ (t.region b).mhz = 2100))) ∧
      (s.ctl.st ≠ stOff ∨ s.rails ≠ row.2 → exec row.1 s = .next s)) ∧
    (s.ctl.st = stBooting → s.ctl.bootStep = 13 → ∃ t, exec .lockTimeout s = .next t ∧ t.ctl.st = stIdle ∧
      t.ctl.bootStep = 15 ∧ t.scr = s.scr) ∧
    (s.ctl.st ≠ stBooting → exec .lockTimeout s = .next s)) ∧
  (∀ (s : State),
    (∀ i : Instr, (i = .pwrGoodDeassert ∨ s.ctl.st ≠ stOff ∧ (i = .coolantFlowLoss ∨ ∃ ch, ch < 8 ∧ i = .ddrLatchOpen ch)) →
      ∃ t, exec i s = .next t ∧ t.ctl.st = stOff ∧ t.mem = Tiers.init ∧ t.cores = [] ∧ t.sem = [] ∧ t.rails = 0 ∧
        t.sec.idk = s.sec.idk ∧ t.sec.dtk = s.sec.dtk ∧ t.sec.owner = s.sec.owner ∧ t.sec.tamper = s.sec.tamper ∧
        t.sec.trips = s.sec.trips ∧ t.sec.ddrKeys = false ∧ t.sec.session = none ∧ t.pat.flash = s.pat.flash ∧
        t.pending = s.pending) ∧
    (s.ctl.st ≠ stOff → exec .controlLinkTrain s = .next { s with ctl := { s.ctl with lanes := 15 } }) ∧
    (∀ n, n < 4 → ∃ t, exec (.controlLinkDown n) s = .next t ∧ bit t.ctl.lanes n = false ∧
      (∀ m, m < 4 → m ≠ n → bit t.ctl.lanes m = bit s.ctl.lanes m) ∧ t.ctl.st = s.ctl.st ∧ t.cores = s.cores) ∧
    (s.ctl.st ≠ stOff → ∃ t, exec .watchdog s = .next t ∧ fatalSeen s t evWatchdog 1 0) ∧
    ∀ l m, s.ctl.st ≠ stOff → l < 8 → m < 16 → ∃ t, exec (.scrimModuleFail l m) s = .next t ∧
      fatalSeen s t evScrimFail 1 0)

/-- R418 to R421: the oldest event leaves the queue: counted while the recorder is frozen or full, folded into the
last record where it repeats it, stored where it fits beside the record of filling up, else the recorder is full. -/
def Obligations.recorder_event : Prop :=
  ∀ (s : State) (e : Ev) (q : List Ev), s.er.q = e :: q →
    let r := s.er
    let n := 6 + e.payload.length
    ∃ t, exec .recorderEvent s = .next t ∧ t.er.q = q ∧ t.ctl = s.ctl ∧ t.cores = s.cores ∧
      (if r.frozen then t.er = { r with q := q, frozenCnt := satAdd 32 r.frozenCnt 1 }
      else if r.full then t.er = { r with q := q, lost := satAdd 32 r.lost 1 }
      else if r.folds e then t.er.wptr = r.wptr ∧ t.er.records = r.records ∧
        aget 0 t.er.words r.last = r.word r.last + 2 ^ 18 ∧ aget 0 t.er.words (r.last + 4) = e.tick % 2 ^ 32 ∧
        aget 0 t.er.words (r.last + 5) = (e.tick >>> 32) % 2 ^ 32 ∧
        ∀ i, i ≠ r.last → i ≠ r.last + 4 → i ≠ r.last + 5 → aget 0 t.er.words i = aget 0 r.words i
      else if r.wptr + n + 6 ≤ 2 ^ 20 then t.er.wptr = r.wptr + n ∧ t.er.last = r.wptr ∧ t.er.full = false ∧
        t.er.records = satAdd 32 r.records 1 ∧ (∀ i, i < r.wptr → aget 0 t.er.words i = aget 0 r.words i) ∧
        aget 0 t.er.words r.wptr = e.code % 4096 + n * 2 ^ 12 ∧
        ∀ i, i < e.payload.length → aget 0 t.er.words (r.wptr + 6 + i) = e.payload.getD i 0 % 2 ^ 32
      else t.er.full = true ∧ t.er.lost = satAdd 32 r.lost 1 ∧ t.er.wptr = r.wptr + 6 ∧
        aget 0 t.er.words r.wptr = evErFull + 6 * 2 ^ 12 ∧
        ∀ i, i < r.wptr → aget 0 t.er.words i = aget 0 r.words i)

/-! ### The block -/

/-- The front command of the queue is taken off and runs on the rest. -/
def Obligations.step_runs_front_command : Prop :=
  ∀ (s : State) (c : Instr) (rest : List Instr), s.pending = c :: rest →
    step s = exec c { s with pending := rest }

/-- MODEL'S CHOICE (log entry 2): on an empty queue a step is one tick of time: OFF nothing happens; the nanosecond
count advances, and screed time with it while it runs, but for a tick that slewing adds or withholds (R21); at all ones it
stays (R10). Where nothing waits for time to pass, no memory, semaphore or device state changes; a line read that waits for a
refresh window returns in the first tick after it (R301). -/
def Obligations.empty_queue_ticks : Prop :=
  (∀ (s : State), s.pending = [] → (s.ctl.st = stOff → step s = .next s) ∧
    (s.ctl.st ≠ stOff → (∀ p, (s.port p).reqBuf = []) → s.mem.held = [] → s.ctl.q = [] →
      ∃ t, step s = .next t ∧ t.pending = [] ∧ t.mem = s.mem ∧ t.sem = s.sem ∧ t.ctl = s.ctl ∧
      (s.scr.running = false → t.scr.now = s.scr.now ∧ t.scr.ns = s.scr.ns + 1) ∧
      (s.scr.running = true → s.scr.now < s.scr.lastSlew + 1024 →
        t.scr.now = satAdd 64 s.scr.now 1 ∧ t.scr.ns = s.scr.ns + 1 ∧ t.scr.slew = s.scr.slew) ∧
      (s.scr.running = true → s.scr.lastSlew + 1024 ≤ s.scr.now →
        (0 < s.scr.slew → t.scr.now = satAdd 64 s.scr.now 1 ∧ t.scr.ns = s.scr.ns ∧
          t.scr.slew = s.scr.slew - 1) ∧
        (s.scr.slew < 0 → t.scr.now = s.scr.now ∧ t.scr.ns = s.scr.ns + 1 ∧ t.scr.slew = s.scr.slew + 1) ∧
        (s.scr.slew = 0 → t.scr.now = satAdd 64 s.scr.now 1 ∧ t.scr.ns = s.scr.ns + 1)))) ∧
  ∀ (s : State) (h : Held) (l : Line), s.pending = [] → s.ctl.st ≠ stOff → (∀ p, (s.port p).reqBuf = []) →
    s.mem.held = [h] → s.ctl.q = [] → h.write = none → gaSpace h.addr = spDdr → h.who.1 < 2048 →
    (s.core h.who.1).lineOf h.who.2 = some l → l.stage = 1 → l.write = false → ∃ t, step s = .next t ∧
      (s.tickOnce.refreshing h.addr = true → t.mem.held = [h] ∧ (t.core h.who.1).lineOf h.who.2 = some l) ∧
      (s.tickOnce.refreshing h.addr = false → t.mem.held = [] ∧ (t.core h.who.1).lineOf h.who.2 =
        some { l with data := rowsOfLine (s.lineAt h.addr).1 ((s.lineAt h.addr).2 || eccBad h.ecc), stage := 2,
                      merged := false, back := s.cyc h.who.1 })

/-- Every command answers a next state with the queue as it was, or names a unit that the device does not have. None
is refused. MODEL'S CHOICE: the fault for a missing unit (log entry 5). -/
def Obligations.commands_keep_the_queue : Prop :=
  ∀ (c : Instr) (s : State), exec c s = .fault .noSuchUnit ∨ ∃ t, exec c s = .next t ∧ t.pending = s.pending

/-- Tables 03-14 to 20-5: at reset the device is OFF with its register defaults: SEM_WAIT_LIMIT 1,000,000, GOV_CAP 10,
GOV_CFG, SAND_CFG 3 and each core's SP_SCRUB 0x100; nothing is stored, queued or under way; and the invariants hold.
MODEL'S CHOICE: that State.reset is the device without power, and every zero that no table gives (log entry 3). -/
def Obligations.reset_state : Prop :=
  let s := State.reset
  s.ctl.st = stOff ∧ s.pending = [] ∧ s.dreg 0x1100 = 1000000 ∧ s.dreg 0x300000 = 10 ∧ s.dreg 0x300008 = 0x5A5F03E8 ∧
    s.dreg 0x410000 = 3 ∧ s.scr.running = false ∧ s.scr.locked = false ∧ s.mem = Tiers.init ∧ s.sem = [] ∧
    (∀ c, (s.core c).reg 0x5000 = 0x100 ∧ (∀ n, (s.core c).s n = 0#32) ∧ (s.core c).sp.mem = [] ∧
      (s.core c).inflight = []) ∧
    s.erased ∧ s.memWf = true ∧ s.modesLegal

/-- R389, R399, R401, R403: once a device is zeroised, no step of it brings a key or a session back. Tables 15-2 and
18-4: every step keeps the device in one of its seven states and each bay at one of its four frequency steps. -/
def Obligations.keys_and_modes_stay_legal : Prop :=
  (∀ (s t : State), s.erased → step s = .next t → t.erased) ∧
  (∀ (s t : State), s.modesLegal → step s = .next t → t.modesLegal)

/-- Every step keeps the byte memories, HBM, DDR5, scratchpads and bundle memories, in canonical form: addresses
rising and no zero listed. -/
def Obligations.memories_stay_canonical : Prop :=
  ∀ (s t : State), s.memWf = true → step s = .next t → t.memWf = true

/-- R60, R245, R253, R259, R290: only the commands that write them change HBM and DDR5, the scratchpads and the
semaphores: every other command leaves each byte and each value as it was. -/
def Obligations.memory_frame : Prop :=
  ∀ (c : Instr) (s t : State), exec c s = .next t →
    (writesTiers c = false → t.mem.hbm = s.mem.hbm ∧ t.mem.ddr = s.mem.ddr) ∧
    (writesPads c = false → ∀ d, (t.core d).sp.mem = (s.core d).sp.mem) ∧
    (writesSems c = false → t.sem = s.sem)
end

