-- ==== Sys2Proof/Laws/Maps.lean ====
section
/-!
SUPPORT. The sparse maps and the byte memories: what a read gives after a write, and the canonical form that every
operation keeps.
-/

namespace Sys2Proof.Machine

/-! ### Reads after writes -/

@[simp] theorem aget_adel_self {α : Type} (d : α) (m : AMap α) (k : Nat) : aget d (adel m k) k = d := by
  induction m with
  | nil => rfl
  | cons x m ih =>
    obtain ⟨j, v⟩ := x
    by_cases h : j = k <;> simp [adel, aget, h, ih]

theorem aget_adel_ne {α : Type} (d : α) (m : AMap α) {j k : Nat} (h : j ≠ k) : aget d (adel m k) j = aget d m j := by
  induction m with
  | nil => rfl
  | cons x m ih =>
    obtain ⟨i, v⟩ := x
    by_cases hk : i = k
    · subst hk
      simp [adel, aget, ih, Ne.symm h]
    · by_cases hj : i = j
      · subst hj
        simp [adel, aget, hk]
      · simp [adel, aget, hk, hj, ih]

theorem aget_ains_self {α : Type} (d : α) (m : AMap α) (k : Nat) (v : α) : aget d (ains (adel m k) k v) k = v := by
  induction m with
  | nil => simp [adel, ains, aget]
  | cons x m ih =>
    obtain ⟨j, w⟩ := x
    by_cases h : j = k
    · simpa [adel, h] using ih
    · by_cases hl : k < j <;> simp [adel, ains, aget, h, hl, ih]

theorem aget_ains_ne {α : Type} (d : α) (m : AMap α) {j k : Nat} (v : α) (h : j ≠ k) :
    aget d (ains m k v) j = aget d m j := by
  induction m with
  | nil => simp [ains, aget, Ne.symm h]
  | cons x m ih =>
    obtain ⟨i, w⟩ := x
    by_cases hl : k < i
    · simp [ains, aget, hl, Ne.symm h]
    · by_cases hj : i = j
      · subst hj
        simp [ains, aget, hl]
      · simp [ains, aget, hl, hj, ih]

@[simp] theorem aget_aput_self {α : Type} (d : α) (m : AMap α) (k : Nat) (v : α) : aget d (aput m k v) k = v :=
  aget_ains_self d m k v

theorem aget_aput_ne {α : Type} (d : α) (m : AMap α) {j k : Nat} (v : α) (h : j ≠ k) :
    aget d (aput m k v) j = aget d m j := by
  rw [aput, aget_ains_ne d _ v h, aget_adel_ne d m h]

theorem aget_aput {α : Type} (d : α) (m : AMap α) (j k : Nat) (v : α) :
    aget d (aput m k v) j = if j = k then v else aget d m j := by
  by_cases h : j = k
  · subst h; simp
  · simp [h, aget_aput_ne d m v h]

theorem aget_map {α β : Type} (f : α → β) (d : α) (m : AMap α) (k : Nat) :
    aget (f d) (m.map fun p => (p.1, f p.2)) k = f (aget d m k) := by
  induction m with
  | nil => rfl
  | cons x m ih =>
    obtain ⟨j, v⟩ := x
    by_cases h : j = k <;> simp [aget, h, ih]

theorem aget_abump_self (m : AMap Nat) (k n : Nat) : aget 0 (abump m k n) k = satAdd 32 (aget 0 m k) n := by
  simp [abump]

theorem aget_abump_ne (m : AMap Nat) {j k : Nat} (n : Nat) (h : j ≠ k) : aget 0 (abump m k n) j = aget 0 m j :=
  aget_aput_ne 0 m _ h

/-! ### The canonical form of a map -/

theorem keysAbove_mono {α : Type} {a b : Nat} (h : a ≤ b) {m : AMap α} (hm : keysAbove b m = true) :
    keysAbove a m = true := by
  cases m with
  | nil => rfl
  | cons x m =>
    obtain ⟨j, v⟩ := x
    simp [keysAbove] at hm ⊢
    exact ⟨by omega, hm.2⟩

theorem keysAbove_rise {α : Type} {a : Nat} {m : AMap α} (h : keysAbove a m = true) : keysRise m = true := by
  cases m with
  | nil => rfl
  | cons x m => simp [keysAbove] at h; exact h.2

theorem keysAbove_adel {α : Type} {a k : Nat} {m : AMap α} (h : keysAbove a m = true) :
    keysAbove a (adel m k) = true := by
  induction m generalizing a with
  | nil => rfl
  | cons x m ih =>
    obtain ⟨j, v⟩ := x
    simp [keysAbove] at h
    by_cases hk : j = k
    · simpa [adel, hk] using keysAbove_mono (by omega) (ih h.2)
    · simpa [adel, hk, keysAbove] using ⟨h.1, ih h.2⟩

theorem keysRise_adel {α : Type} {k : Nat} {m : AMap α} (h : keysRise m = true) : keysRise (adel m k) = true := by
  cases m with
  | nil => rfl
  | cons x m =>
    obtain ⟨j, v⟩ := x
    by_cases hk : j = k
    · simpa [adel, hk] using keysAbove_rise (keysAbove_adel (k := k) h)
    · simpa [adel, hk, keysRise] using keysAbove_adel (k := k) h

theorem keysAbove_ains {α : Type} {a k : Nat} {v : α} {m : AMap α} (ha : a < k) (hm : keysAbove a m = true)
    (hk : ∀ p ∈ m, p.1 ≠ k) : keysAbove a (ains m k v) = true := by
  induction m generalizing a with
  | nil => simp [ains, keysAbove, ha]
  | cons x m ih =>
    obtain ⟨j, w⟩ := x
    simp [keysAbove] at hm
    have hj : j ≠ k := hk (j, w) (by simp)
    by_cases hl : k < j
    · simp [ains, hl, keysAbove, ha, hm.2]
    · have : j < k := by omega
      simpa [ains, hl, keysAbove, hm.1] using ih this hm.2 fun p hp => hk p (by simp [hp])

theorem not_mem_adel {α : Type} (m : AMap α) (k : Nat) : ∀ p ∈ adel m k, p.1 ≠ k := by
  induction m with
  | nil => simp [adel]
  | cons x m ih =>
    obtain ⟨j, v⟩ := x
    by_cases h : j = k
    · simpa [adel, h] using ih
    · simpa [adel, h] using ih

theorem keysRise_ains {α : Type} {k : Nat} {v : α} {m : AMap α} (hm : keysRise m = true) (hk : ∀ p ∈ m, p.1 ≠ k) :
    keysRise (ains m k v) = true := by
  cases m with
  | nil => rfl
  | cons x m =>
    obtain ⟨j, w⟩ := x
    have hj : j ≠ k := hk (j, w) (by simp)
    by_cases hl : k < j
    · have h2 : keysAbove j m = true := hm
      simp [ains, hl, keysRise, keysAbove, h2]
    · have : j < k := by omega
      simpa [ains, hl, keysRise] using keysAbove_ains this hm fun p hp => hk p (by simp [hp])

theorem keysRise_aput {α : Type} {k : Nat} {v : α} {m : AMap α} (h : keysRise m = true) :
    keysRise (aput m k v) = true :=
  keysRise_ains (keysRise_adel h) (not_mem_adel m k)

/-! ### Byte memories -/

theorem all_adel {α : Type} {q : Nat × α → Bool} {m : AMap α} {k : Nat} (h : m.all q = true) :
    (adel m k).all q = true := by
  induction m with
  | nil => rfl
  | cons x m ih =>
    obtain ⟨j, v⟩ := x
    simp only [List.all_cons, Bool.and_eq_true] at h
    by_cases hk : j = k <;> simp [adel, hk, h.1, ih h.2]

theorem all_ains {α : Type} {q : Nat × α → Bool} {m : AMap α} {k : Nat} {v : α} (h : m.all q = true)
    (hv : q (k, v) = true) : (ains m k v).all q = true := by
  induction m with
  | nil => simp [ains, hv]
  | cons x m ih =>
    obtain ⟨j, w⟩ := x
    simp only [List.all_cons, Bool.and_eq_true] at h
    by_cases hl : k < j
    · simp only [ains, hl, if_true, List.all_cons, Bool.and_eq_true]
      exact ⟨hv, h⟩
    · simp only [ains, hl, if_false, List.all_cons, Bool.and_eq_true]
      exact ⟨h.1, ih h.2⟩

/-- A byte that is written is read back. -/
@[simp] theorem mget_mput_self (m : List Host.Cell) (a : Nat) (v : Byte) : mget (mput m a v) a = v := by
  by_cases h : v = 0#8 <;> simp [mput, mget, h]

/-- A write leaves every other byte. -/
theorem mget_mput_ne (m : List Host.Cell) {a b : Nat} (v : Byte) (h : b ≠ a) : mget (mput m a v) b = mget m b := by
  by_cases hv : v = 0#8
  · simp [mput, mget, hv, aget_adel_ne _ m h]
  · simp [mput, mget, hv, aget_aput_ne _ m v h]

/-- A write keeps the canonical form. -/
theorem wf_mput {m : List Host.Cell} (a : Nat) (v : Byte) (h : Memory.wf m = true) : Memory.wf (mput m a v) = true := by
  simp only [Memory.wf, Bool.and_eq_true] at h ⊢
  by_cases hv : v = 0#8
  · simpa [mput, hv] using And.intro (keysRise_adel (k := a) h.1) (all_adel (k := a) h.2)
  · simp only [mput, beq_iff_eq, hv, if_false]
    exact ⟨keysRise_aput h.1, all_ains (all_adel h.2) (by simpa using hv)⟩

theorem wf_mputs {m : List Host.Cell} (a : Nat) (bs : List Byte) (h : Memory.wf m = true) :
    Memory.wf (mputs m a bs) = true := by
  induction bs generalizing m a with
  | nil => exact h
  | cons b bs ih => exact ih _ (wf_mput a b h)

theorem wf_mputSome {m : List Host.Cell} (a : Nat) (bs : List (Option Byte)) (h : Memory.wf m = true) :
    Memory.wf (mputSome m a bs) = true := by
  induction bs generalizing m a with
  | nil => exact h
  | cons b bs ih =>
    cases b with
    | none => exact ih _ h
    | some b => exact ih _ (wf_mput a b h)

theorem and_ones (x : Byte) : x &&& 255#8 = x := BitVec.and_allOnes (x := x)

theorem wf_mputBits {m : List Host.Cell} (a : Nat) (w : List ByteWrite) (h : Memory.wf m = true) :
    Memory.wf (mputBits m a w) = true := by
  induction w generalizing m a with
  | nil => exact h
  | cons x w ih =>
    refine ih _ ?_
    split
    · exact h
    · exact wf_mput _ _ h

/-- Bytes below the first one of a write of bits stay as they were. -/
theorem mget_mputBits_lt (m : List Host.Cell) {a b : Nat} (w : List ByteWrite) (h : b < a) :
    mget (mputBits m a w) b = mget m b := by
  induction w generalizing m a with
  | nil => rfl
  | cons x w ih =>
    rw [mputBits, ih _ (by omega)]
    split
    · rfl
    · exact mget_mput_ne m _ (by omega)

/-- The byte at an address after a write of bits: those written there over the ones before. -/
theorem mget_mputBits (m : List Host.Cell) (a b : Nat) (w : List ByteWrite) :
    mget (mputBits m a w) b =
      if a ≤ b then (mget m b &&& ~~~(w.getD (b - a) (0#8, 0#8)).1) |||
        ((w.getD (b - a) (0#8, 0#8)).2 &&& (w.getD (b - a) (0#8, 0#8)).1) else mget m b := by
  induction w generalizing m a with
  | nil => simp [mputBits, and_ones]
  | cons x w ih =>
    by_cases hab : a = b
    · subst hab
      by_cases hx : x.1 = 0#8
      · simp [mputBits, hx, mget_mputBits_lt m w (Nat.lt_succ_self a), and_ones]
      · simp [mputBits, hx, mget_mputBits_lt _ w (Nat.lt_succ_self a)]
    · by_cases hl : a ≤ b
      · obtain ⟨n, hn⟩ : ∃ n, b - a = n + 1 := ⟨b - a - 1, by omega⟩
        have hn' : b - (a + 1) = n := by omega
        have hl' : a + 1 ≤ b := by omega
        by_cases hx : x.1 = 0#8
        · simp [mputBits, ih, hl, hl', hn, hn', hx]
        · simp [mputBits, ih, hl, hl', hn, hn', hx, mget_mput_ne m _ (Ne.symm hab)]
      · have hl' : ¬ a + 1 ≤ b := by omega
        by_cases hx : x.1 = 0#8
        · simp [mputBits, ih, hl, hl', hx]
        · simp [mputBits, ih, hl, hl', hx, mget_mput_ne m _ (Ne.symm hab)]

/-- Bytes below the first one written stay as they were. -/
theorem mget_mputSome_lt (m : List Host.Cell) {a b : Nat} (bs : List (Option Byte)) (h : b < a) :
    mget (mputSome m a bs) b = mget m b := by
  induction bs generalizing m a with
  | nil => rfl
  | cons x bs ih =>
    cases x with
    | none => exact ih m (by omega)
    | some x => rw [mputSome, ih _ (by omega), mget_mput_ne m x (by omega)]

/-- The byte at an address after a partial write: the one written there, or the one before. -/
theorem mget_mputSome (m : List Host.Cell) (a b : Nat) (bs : List (Option Byte)) :
    mget (mputSome m a bs) b = if a ≤ b then ((bs.getD (b - a) none).getD (mget m b)) else mget m b := by
  induction bs generalizing m a with
  | nil => simp [mputSome]
  | cons x bs ih =>
    by_cases hab : a = b
    · subst hab
      cases x with
      | none => simp [mputSome, mget_mputSome_lt m bs (Nat.lt_succ_self a)]
      | some x => simp [mputSome, mget_mputSome_lt _ bs (Nat.lt_succ_self a)]
    · by_cases hl : a ≤ b
      · obtain ⟨n, hn⟩ : ∃ n, b - a = n + 1 := ⟨b - a - 1, by omega⟩
        have hn' : b - (a + 1) = n := by omega
        have hl' : a + 1 ≤ b := by omega
        cases x with
        | none => simp [mputSome, ih, hl, hl', hn, hn']
        | some x => simp [mputSome, ih, hl, hl', hn, hn', mget_mput_ne m x (Ne.symm hab)]
      · have hl' : ¬ a + 1 ≤ b := by omega
        cases x with
        | none => simp [mputSome, ih, hl, hl']
        | some x => simp [mputSome, ih, hl, hl', mget_mput_ne m x (Ne.symm hab)]

end Sys2Proof.Machine
end

