-- ==== Sys2Proof/Laws/State.lean ====
section
/-!
SUPPORT. One lemma for each field of State and of Core after each named update, and what a read of a core, a register,
a bay or a port gives after one.
-/

namespace Sys2Proof.Machine

/-! ### Fields of State -/

@[simp] theorem State.setCore_pending (s : State) (c : Nat) (k : Core) : (s.setCore c k).pending = s.pending := rfl
@[simp] theorem State.setCore_out (s : State) (c : Nat) (k : Core) : (s.setCore c k).out = s.out := rfl
@[simp] theorem State.setCore_free (s : State) (c : Nat) (k : Core) : (s.setCore c k).free = s.free := rfl
@[simp] theorem State.setCore_cores (s : State) (c : Nat) (k : Core) : (s.setCore c k).cores = aput s.cores c k := rfl
@[simp] theorem State.setCore_dflt (s : State) (c : Nat) (k : Core) : (s.setCore c k).dflt = s.dflt := rfl
@[simp] theorem State.setCore_bays (s : State) (c : Nat) (k : Core) : (s.setCore c k).bays = s.bays := rfl
@[simp] theorem State.setCore_dregs (s : State) (c : Nat) (k : Core) : (s.setCore c k).dregs = s.dregs := rfl
@[simp] theorem State.setCore_sem (s : State) (c : Nat) (k : Core) : (s.setCore c k).sem = s.sem := rfl
@[simp] theorem State.setCore_semIn (s : State) (c : Nat) (k : Core) : (s.setCore c k).semIn = s.semIn := rfl
@[simp] theorem State.setCore_semPark (s : State) (c : Nat) (k : Core) : (s.setCore c k).semPark = s.semPark := rfl
@[simp] theorem State.setCore_semLate (s : State) (c : Nat) (k : Core) : (s.setCore c k).semLate = s.semLate := rfl
@[simp] theorem State.setCore_semAns (s : State) (c : Nat) (k : Core) : (s.setCore c k).semAns = s.semAns := rfl
@[simp] theorem State.setCore_lath (s : State) (c : Nat) (k : Core) : (s.setCore c k).lath = s.lath := rfl
@[simp] theorem State.setCore_er (s : State) (c : Nat) (k : Core) : (s.setCore c k).er = s.er := rfl
@[simp] theorem State.setCore_scr (s : State) (c : Nat) (k : Core) : (s.setCore c k).scr = s.scr := rfl
@[simp] theorem State.setCore_ctl (s : State) (c : Nat) (k : Core) : (s.setCore c k).ctl = s.ctl := rfl
@[simp] theorem State.setCore_fab (s : State) (c : Nat) (k : Core) : (s.setCore c k).fab = s.fab := rfl
@[simp] theorem State.setCore_mem (s : State) (c : Nat) (k : Core) : (s.setCore c k).mem = s.mem := rfl
@[simp] theorem State.setCore_regions (s : State) (c : Nat) (k : Core) : (s.setCore c k).regions = s.regions := rfl
@[simp] theorem State.setCore_xng (s : State) (c : Nat) (k : Core) : (s.setCore c k).xng = s.xng := rfl
@[simp] theorem State.setCore_arb (s : State) (c : Nat) (k : Core) : (s.setCore c k).arb = s.arb := rfl
@[simp] theorem State.setCore_sec (s : State) (c : Nat) (k : Core) : (s.setCore c k).sec = s.sec := rfl
@[simp] theorem State.setCore_pat (s : State) (c : Nat) (k : Core) : (s.setCore c k).pat = s.pat := rfl
@[simp] theorem State.setCore_sand (s : State) (c : Nat) (k : Core) : (s.setCore c k).sand = s.sand := rfl
@[simp] theorem State.setCore_expand (s : State) (c : Nat) (k : Core) : (s.setCore c k).expand = s.expand := rfl
@[simp] theorem State.setCore_rails (s : State) (c : Nat) (k : Core) : (s.setCore c k).rails = s.rails := rfl

@[simp] theorem State.modCore_pending (s : State) (c : Nat) (f : Core → Core) :
    (s.modCore c f).pending = s.pending := rfl
@[simp] theorem State.modCore_out (s : State) (c : Nat) (f : Core → Core) : (s.modCore c f).out = s.out := rfl
@[simp] theorem State.modCore_free (s : State) (c : Nat) (f : Core → Core) : (s.modCore c f).free = s.free := rfl
@[simp] theorem State.modCore_cores (s : State) (c : Nat) (f : Core → Core) :
    (s.modCore c f).cores = aput s.cores c (f (s.core c)) := rfl
@[simp] theorem State.modCore_dflt (s : State) (c : Nat) (f : Core → Core) : (s.modCore c f).dflt = s.dflt := rfl
@[simp] theorem State.modCore_bays (s : State) (c : Nat) (f : Core → Core) : (s.modCore c f).bays = s.bays := rfl
@[simp] theorem State.modCore_dregs (s : State) (c : Nat) (f : Core → Core) : (s.modCore c f).dregs = s.dregs := rfl
@[simp] theorem State.modCore_sem (s : State) (c : Nat) (f : Core → Core) : (s.modCore c f).sem = s.sem := rfl
@[simp] theorem State.modCore_semIn (s : State) (c : Nat) (f : Core → Core) : (s.modCore c f).semIn = s.semIn := rfl
@[simp] theorem State.modCore_semPark (s : State) (c : Nat) (f : Core → Core) :
    (s.modCore c f).semPark = s.semPark := rfl
@[simp] theorem State.modCore_semLate (s : State) (c : Nat) (f : Core → Core) :
    (s.modCore c f).semLate = s.semLate := rfl
@[simp] theorem State.modCore_semAns (s : State) (c : Nat) (f : Core → Core) :
    (s.modCore c f).semAns = s.semAns := rfl
@[simp] theorem State.modCore_lath (s : State) (c : Nat) (f : Core → Core) : (s.modCore c f).lath = s.lath := rfl
@[simp] theorem State.modCore_er (s : State) (c : Nat) (f : Core → Core) : (s.modCore c f).er = s.er := rfl
@[simp] theorem State.modCore_scr (s : State) (c : Nat) (f : Core → Core) : (s.modCore c f).scr = s.scr := rfl
@[simp] theorem State.modCore_ctl (s : State) (c : Nat) (f : Core → Core) : (s.modCore c f).ctl = s.ctl := rfl
@[simp] theorem State.modCore_fab (s : State) (c : Nat) (f : Core → Core) : (s.modCore c f).fab = s.fab := rfl
@[simp] theorem State.modCore_mem (s : State) (c : Nat) (f : Core → Core) : (s.modCore c f).mem = s.mem := rfl
@[simp] theorem State.modCore_regions (s : State) (c : Nat) (f : Core → Core) :
    (s.modCore c f).regions = s.regions := rfl
@[simp] theorem State.modCore_xng (s : State) (c : Nat) (f : Core → Core) : (s.modCore c f).xng = s.xng := rfl
@[simp] theorem State.modCore_arb (s : State) (c : Nat) (f : Core → Core) : (s.modCore c f).arb = s.arb := rfl
@[simp] theorem State.modCore_sec (s : State) (c : Nat) (f : Core → Core) : (s.modCore c f).sec = s.sec := rfl
@[simp] theorem State.modCore_pat (s : State) (c : Nat) (f : Core → Core) : (s.modCore c f).pat = s.pat := rfl
@[simp] theorem State.modCore_sand (s : State) (c : Nat) (f : Core → Core) : (s.modCore c f).sand = s.sand := rfl
@[simp] theorem State.modCore_expand (s : State) (c : Nat) (f : Core → Core) :
    (s.modCore c f).expand = s.expand := rfl
@[simp] theorem State.modCore_rails (s : State) (c : Nat) (f : Core → Core) : (s.modCore c f).rails = s.rails := rfl

@[simp] theorem State.mapCores_pending (s : State) (f : Core → Core) : (s.mapCores f).pending = s.pending := rfl
@[simp] theorem State.mapCores_out (s : State) (f : Core → Core) : (s.mapCores f).out = s.out := rfl
@[simp] theorem State.mapCores_free (s : State) (f : Core → Core) : (s.mapCores f).free = s.free := rfl
@[simp] theorem State.mapCores_cores (s : State) (f : Core → Core) :
    (s.mapCores f).cores = s.cores.map (fun p => (p.1, f p.2)) := rfl
@[simp] theorem State.mapCores_dflt (s : State) (f : Core → Core) : (s.mapCores f).dflt = f s.dflt := rfl
@[simp] theorem State.mapCores_bays (s : State) (f : Core → Core) : (s.mapCores f).bays = s.bays := rfl
@[simp] theorem State.mapCores_dregs (s : State) (f : Core → Core) : (s.mapCores f).dregs = s.dregs := rfl
@[simp] theorem State.mapCores_sem (s : State) (f : Core → Core) : (s.mapCores f).sem = s.sem := rfl
@[simp] theorem State.mapCores_semIn (s : State) (f : Core → Core) : (s.mapCores f).semIn = s.semIn := rfl
@[simp] theorem State.mapCores_semPark (s : State) (f : Core → Core) : (s.mapCores f).semPark = s.semPark := rfl
@[simp] theorem State.mapCores_semLate (s : State) (f : Core → Core) : (s.mapCores f).semLate = s.semLate := rfl
@[simp] theorem State.mapCores_semAns (s : State) (f : Core → Core) : (s.mapCores f).semAns = s.semAns := rfl
@[simp] theorem State.mapCores_lath (s : State) (f : Core → Core) : (s.mapCores f).lath = s.lath := rfl
@[simp] theorem State.mapCores_er (s : State) (f : Core → Core) : (s.mapCores f).er = s.er := rfl
@[simp] theorem State.mapCores_scr (s : State) (f : Core → Core) : (s.mapCores f).scr = s.scr := rfl
@[simp] theorem State.mapCores_ctl (s : State) (f : Core → Core) : (s.mapCores f).ctl = s.ctl := rfl
@[simp] theorem State.mapCores_fab (s : State) (f : Core → Core) : (s.mapCores f).fab = s.fab := rfl
@[simp] theorem State.mapCores_mem (s : State) (f : Core → Core) : (s.mapCores f).mem = s.mem := rfl
@[simp] theorem State.mapCores_regions (s : State) (f : Core → Core) : (s.mapCores f).regions = s.regions := rfl
@[simp] theorem State.mapCores_xng (s : State) (f : Core → Core) : (s.mapCores f).xng = s.xng := rfl
@[simp] theorem State.mapCores_arb (s : State) (f : Core → Core) : (s.mapCores f).arb = s.arb := rfl
@[simp] theorem State.mapCores_sec (s : State) (f : Core → Core) : (s.mapCores f).sec = s.sec := rfl
@[simp] theorem State.mapCores_pat (s : State) (f : Core → Core) : (s.mapCores f).pat = s.pat := rfl
@[simp] theorem State.mapCores_sand (s : State) (f : Core → Core) : (s.mapCores f).sand = s.sand := rfl
@[simp] theorem State.mapCores_expand (s : State) (f : Core → Core) : (s.mapCores f).expand = s.expand := rfl
@[simp] theorem State.mapCores_rails (s : State) (f : Core → Core) : (s.mapCores f).rails = s.rails := rfl

@[simp] theorem State.setBay_pending (s : State) (b : Nat) (y : Bay) : (s.setBay b y).pending = s.pending := rfl
@[simp] theorem State.setBay_out (s : State) (b : Nat) (y : Bay) : (s.setBay b y).out = s.out := rfl
@[simp] theorem State.setBay_free (s : State) (b : Nat) (y : Bay) : (s.setBay b y).free = s.free := rfl
@[simp] theorem State.setBay_cores (s : State) (b : Nat) (y : Bay) : (s.setBay b y).cores = s.cores := rfl
@[simp] theorem State.setBay_dflt (s : State) (b : Nat) (y : Bay) : (s.setBay b y).dflt = s.dflt := rfl
@[simp] theorem State.setBay_bays (s : State) (b : Nat) (y : Bay) : (s.setBay b y).bays = aput s.bays b y := rfl
@[simp] theorem State.setBay_dregs (s : State) (b : Nat) (y : Bay) : (s.setBay b y).dregs = s.dregs := rfl
@[simp] theorem State.setBay_sem (s : State) (b : Nat) (y : Bay) : (s.setBay b y).sem = s.sem := rfl
@[simp] theorem State.setBay_semIn (s : State) (b : Nat) (y : Bay) : (s.setBay b y).semIn = s.semIn := rfl
@[simp] theorem State.setBay_semPark (s : State) (b : Nat) (y : Bay) : (s.setBay b y).semPark = s.semPark := rfl
@[simp] theorem State.setBay_semLate (s : State) (b : Nat) (y : Bay) : (s.setBay b y).semLate = s.semLate := rfl
@[simp] theorem State.setBay_semAns (s : State) (b : Nat) (y : Bay) : (s.setBay b y).semAns = s.semAns := rfl
@[simp] theorem State.setBay_lath (s : State) (b : Nat) (y : Bay) : (s.setBay b y).lath = s.lath := rfl
@[simp] theorem State.setBay_er (s : State) (b : Nat) (y : Bay) : (s.setBay b y).er = s.er := rfl
@[simp] theorem State.setBay_scr (s : State) (b : Nat) (y : Bay) : (s.setBay b y).scr = s.scr := rfl
@[simp] theorem State.setBay_ctl (s : State) (b : Nat) (y : Bay) : (s.setBay b y).ctl = s.ctl := rfl
@[simp] theorem State.setBay_fab (s : State) (b : Nat) (y : Bay) : (s.setBay b y).fab = s.fab := rfl
@[simp] theorem State.setBay_mem (s : State) (b : Nat) (y : Bay) : (s.setBay b y).mem = s.mem := rfl
@[simp] theorem State.setBay_regions (s : State) (b : Nat) (y : Bay) : (s.setBay b y).regions = s.regions := rfl
@[simp] theorem State.setBay_xng (s : State) (b : Nat) (y : Bay) : (s.setBay b y).xng = s.xng := rfl
@[simp] theorem State.setBay_arb (s : State) (b : Nat) (y : Bay) : (s.setBay b y).arb = s.arb := rfl
@[simp] theorem State.setBay_sec (s : State) (b : Nat) (y : Bay) : (s.setBay b y).sec = s.sec := rfl
@[simp] theorem State.setBay_pat (s : State) (b : Nat) (y : Bay) : (s.setBay b y).pat = s.pat := rfl
@[simp] theorem State.setBay_sand (s : State) (b : Nat) (y : Bay) : (s.setBay b y).sand = s.sand := rfl
@[simp] theorem State.setBay_expand (s : State) (b : Nat) (y : Bay) : (s.setBay b y).expand = s.expand := rfl
@[simp] theorem State.setBay_rails (s : State) (b : Nat) (y : Bay) : (s.setBay b y).rails = s.rails := rfl

@[simp] theorem State.setDreg_pending (s : State) (off v : Nat) : (s.setDreg off v).pending = s.pending := rfl
@[simp] theorem State.setDreg_out (s : State) (off v : Nat) : (s.setDreg off v).out = s.out := rfl
@[simp] theorem State.setDreg_free (s : State) (off v : Nat) : (s.setDreg off v).free = s.free := rfl
@[simp] theorem State.setDreg_cores (s : State) (off v : Nat) : (s.setDreg off v).cores = s.cores := rfl
@[simp] theorem State.setDreg_dflt (s : State) (off v : Nat) : (s.setDreg off v).dflt = s.dflt := rfl
@[simp] theorem State.setDreg_bays (s : State) (off v : Nat) : (s.setDreg off v).bays = s.bays := rfl
@[simp] theorem State.setDreg_dregs (s : State) (off v : Nat) :
    (s.setDreg off v).dregs = aput s.dregs off (v % 2 ^ 32) := rfl
@[simp] theorem State.setDreg_sem (s : State) (off v : Nat) : (s.setDreg off v).sem = s.sem := rfl
@[simp] theorem State.setDreg_semIn (s : State) (off v : Nat) : (s.setDreg off v).semIn = s.semIn := rfl
@[simp] theorem State.setDreg_semPark (s : State) (off v : Nat) : (s.setDreg off v).semPark = s.semPark := rfl
@[simp] theorem State.setDreg_semLate (s : State) (off v : Nat) : (s.setDreg off v).semLate = s.semLate := rfl
@[simp] theorem State.setDreg_semAns (s : State) (off v : Nat) : (s.setDreg off v).semAns = s.semAns := rfl
@[simp] theorem State.setDreg_lath (s : State) (off v : Nat) : (s.setDreg off v).lath = s.lath := rfl
@[simp] theorem State.setDreg_er (s : State) (off v : Nat) : (s.setDreg off v).er = s.er := rfl
@[simp] theorem State.setDreg_scr (s : State) (off v : Nat) : (s.setDreg off v).scr = s.scr := rfl
@[simp] theorem State.setDreg_ctl (s : State) (off v : Nat) : (s.setDreg off v).ctl = s.ctl := rfl
@[simp] theorem State.setDreg_fab (s : State) (off v : Nat) : (s.setDreg off v).fab = s.fab := rfl
@[simp] theorem State.setDreg_mem (s : State) (off v : Nat) : (s.setDreg off v).mem = s.mem := rfl
@[simp] theorem State.setDreg_regions (s : State) (off v : Nat) : (s.setDreg off v).regions = s.regions := rfl
@[simp] theorem State.setDreg_xng (s : State) (off v : Nat) : (s.setDreg off v).xng = s.xng := rfl
@[simp] theorem State.setDreg_arb (s : State) (off v : Nat) : (s.setDreg off v).arb = s.arb := rfl
@[simp] theorem State.setDreg_sec (s : State) (off v : Nat) : (s.setDreg off v).sec = s.sec := rfl
@[simp] theorem State.setDreg_pat (s : State) (off v : Nat) : (s.setDreg off v).pat = s.pat := rfl
@[simp] theorem State.setDreg_sand (s : State) (off v : Nat) : (s.setDreg off v).sand = s.sand := rfl
@[simp] theorem State.setDreg_expand (s : State) (off v : Nat) : (s.setDreg off v).expand = s.expand := rfl
@[simp] theorem State.setDreg_rails (s : State) (off v : Nat) : (s.setDreg off v).rails = s.rails := rfl

@[simp] theorem State.bumpD_pending (s : State) (off : Nat) : (s.bumpD off).pending = s.pending := rfl
@[simp] theorem State.bumpD_out (s : State) (off : Nat) : (s.bumpD off).out = s.out := rfl
@[simp] theorem State.bumpD_free (s : State) (off : Nat) : (s.bumpD off).free = s.free := rfl
@[simp] theorem State.bumpD_cores (s : State) (off : Nat) : (s.bumpD off).cores = s.cores := rfl
@[simp] theorem State.bumpD_dflt (s : State) (off : Nat) : (s.bumpD off).dflt = s.dflt := rfl
@[simp] theorem State.bumpD_bays (s : State) (off : Nat) : (s.bumpD off).bays = s.bays := rfl
@[simp] theorem State.bumpD_dregs (s : State) (off : Nat) : (s.bumpD off).dregs = abump s.dregs off 1 := rfl
@[simp] theorem State.bumpD_sem (s : State) (off : Nat) : (s.bumpD off).sem = s.sem := rfl
@[simp] theorem State.bumpD_semIn (s : State) (off : Nat) : (s.bumpD off).semIn = s.semIn := rfl
@[simp] theorem State.bumpD_semPark (s : State) (off : Nat) : (s.bumpD off).semPark = s.semPark := rfl
@[simp] theorem State.bumpD_semLate (s : State) (off : Nat) : (s.bumpD off).semLate = s.semLate := rfl
@[simp] theorem State.bumpD_semAns (s : State) (off : Nat) : (s.bumpD off).semAns = s.semAns := rfl
@[simp] theorem State.bumpD_lath (s : State) (off : Nat) : (s.bumpD off).lath = s.lath := rfl
@[simp] theorem State.bumpD_er (s : State) (off : Nat) : (s.bumpD off).er = s.er := rfl
@[simp] theorem State.bumpD_scr (s : State) (off : Nat) : (s.bumpD off).scr = s.scr := rfl
@[simp] theorem State.bumpD_ctl (s : State) (off : Nat) : (s.bumpD off).ctl = s.ctl := rfl
@[simp] theorem State.bumpD_fab (s : State) (off : Nat) : (s.bumpD off).fab = s.fab := rfl
@[simp] theorem State.bumpD_mem (s : State) (off : Nat) : (s.bumpD off).mem = s.mem := rfl
@[simp] theorem State.bumpD_regions (s : State) (off : Nat) : (s.bumpD off).regions = s.regions := rfl
@[simp] theorem State.bumpD_xng (s : State) (off : Nat) : (s.bumpD off).xng = s.xng := rfl
@[simp] theorem State.bumpD_arb (s : State) (off : Nat) : (s.bumpD off).arb = s.arb := rfl
@[simp] theorem State.bumpD_sec (s : State) (off : Nat) : (s.bumpD off).sec = s.sec := rfl
@[simp] theorem State.bumpD_pat (s : State) (off : Nat) : (s.bumpD off).pat = s.pat := rfl
@[simp] theorem State.bumpD_sand (s : State) (off : Nat) : (s.bumpD off).sand = s.sand := rfl
@[simp] theorem State.bumpD_expand (s : State) (off : Nat) : (s.bumpD off).expand = s.expand := rfl
@[simp] theorem State.bumpD_rails (s : State) (off : Nat) : (s.bumpD off).rails = s.rails := rfl

@[simp] theorem State.emit_pending (s : State) (code : Nat) (core cls : Option Nat) (payload : List Nat) :
    (s.emit code core cls payload).pending = s.pending := rfl
@[simp] theorem State.emit_out (s : State) (code : Nat) (core cls : Option Nat) (payload : List Nat) :
    (s.emit code core cls payload).out = s.out := rfl
@[simp] theorem State.emit_free (s : State) (code : Nat) (core cls : Option Nat) (payload : List Nat) :
    (s.emit code core cls payload).free = s.free := rfl
@[simp] theorem State.emit_cores (s : State) (code : Nat) (core cls : Option Nat) (payload : List Nat) :
    (s.emit code core cls payload).cores = s.cores := rfl
@[simp] theorem State.emit_dflt (s : State) (code : Nat) (core cls : Option Nat) (payload : List Nat) :
    (s.emit code core cls payload).dflt = s.dflt := rfl
@[simp] theorem State.emit_bays (s : State) (code : Nat) (core cls : Option Nat) (payload : List Nat) :
    (s.emit code core cls payload).bays = s.bays := rfl
@[simp] theorem State.emit_dregs (s : State) (code : Nat) (core cls : Option Nat) (payload : List Nat) :
    (s.emit code core cls payload).dregs = s.dregs := rfl
@[simp] theorem State.emit_sem (s : State) (code : Nat) (core cls : Option Nat) (payload : List Nat) :
    (s.emit code core cls payload).sem = s.sem := rfl
@[simp] theorem State.emit_semIn (s : State) (code : Nat) (core cls : Option Nat) (payload : List Nat) :
    (s.emit code core cls payload).semIn = s.semIn := rfl
@[simp] theorem State.emit_semPark (s : State) (code : Nat) (core cls : Option Nat) (payload : List Nat) :
    (s.emit code core cls payload).semPark = s.semPark := rfl
@[simp] theorem State.emit_semLate (s : State) (code : Nat) (core cls : Option Nat) (payload : List Nat) :
    (s.emit code core cls payload).semLate = s.semLate := rfl
@[simp] theorem State.emit_semAns (s : State) (code : Nat) (core cls : Option Nat) (payload : List Nat) :
    (s.emit code core cls payload).semAns = s.semAns := rfl
@[simp] theorem State.emit_lath (s : State) (code : Nat) (core cls : Option Nat) (payload : List Nat) :
    (s.emit code core cls payload).lath = s.lath := rfl
@[simp] theorem State.emit_er (s : State) (code : Nat) (core cls : Option Nat) (payload : List Nat) :
    (s.emit code core cls payload).er = { s.er with q := s.er.q ++ [⟨code, core, cls, payload, s.scr.now⟩] } := rfl
@[simp] theorem State.emit_scr (s : State) (code : Nat) (core cls : Option Nat) (payload : List Nat) :
    (s.emit code core cls payload).scr = s.scr := rfl
@[simp] theorem State.emit_ctl (s : State) (code : Nat) (core cls : Option Nat) (payload : List Nat) :
    (s.emit code core cls payload).ctl = s.ctl := rfl
@[simp] theorem State.emit_fab (s : State) (code : Nat) (core cls : Option Nat) (payload : List Nat) :
    (s.emit code core cls payload).fab = s.fab := rfl
@[simp] theorem State.emit_mem (s : State) (code : Nat) (core cls : Option Nat) (payload : List Nat) :
    (s.emit code core cls payload).mem = s.mem := rfl
@[simp] theorem State.emit_regions (s : State) (code : Nat) (core cls : Option Nat) (payload : List Nat) :
    (s.emit code core cls payload).regions = s.regions := rfl
@[simp] theorem State.emit_xng (s : State) (code : Nat) (core cls : Option Nat) (payload : List Nat) :
    (s.emit code core cls payload).xng = s.xng := rfl
@[simp] theorem State.emit_arb (s : State) (code : Nat) (core cls : Option Nat) (payload : List Nat) :
    (s.emit code core cls payload).arb = s.arb := rfl
@[simp] theorem State.emit_sec (s : State) (code : Nat) (core cls : Option Nat) (payload : List Nat) :
    (s.emit code core cls payload).sec = s.sec := rfl
@[simp] theorem State.emit_pat (s : State) (code : Nat) (core cls : Option Nat) (payload : List Nat) :
    (s.emit code core cls payload).pat = s.pat := rfl
@[simp] theorem State.emit_sand (s : State) (code : Nat) (core cls : Option Nat) (payload : List Nat) :
    (s.emit code core cls payload).sand = s.sand := rfl
@[simp] theorem State.emit_expand (s : State) (code : Nat) (core cls : Option Nat) (payload : List Nat) :
    (s.emit code core cls payload).expand = s.expand := rfl
@[simp] theorem State.emit_rails (s : State) (code : Nat) (core cls : Option Nat) (payload : List Nat) :
    (s.emit code core cls payload).rails = s.rails := rfl

@[simp] theorem State.send_pending (s : State) (o : Out) : (s.send o).pending = s.pending := rfl
@[simp] theorem State.send_out (s : State) (o : Out) : (s.send o).out = s.out ++ [o] := rfl
@[simp] theorem State.send_free (s : State) (o : Out) : (s.send o).free = s.free := rfl
@[simp] theorem State.send_cores (s : State) (o : Out) : (s.send o).cores = s.cores := rfl
@[simp] theorem State.send_dflt (s : State) (o : Out) : (s.send o).dflt = s.dflt := rfl
@[simp] theorem State.send_bays (s : State) (o : Out) : (s.send o).bays = s.bays := rfl
@[simp] theorem State.send_dregs (s : State) (o : Out) : (s.send o).dregs = s.dregs := rfl
@[simp] theorem State.send_sem (s : State) (o : Out) : (s.send o).sem = s.sem := rfl
@[simp] theorem State.send_semIn (s : State) (o : Out) : (s.send o).semIn = s.semIn := rfl
@[simp] theorem State.send_semPark (s : State) (o : Out) : (s.send o).semPark = s.semPark := rfl
@[simp] theorem State.send_semLate (s : State) (o : Out) : (s.send o).semLate = s.semLate := rfl
@[simp] theorem State.send_semAns (s : State) (o : Out) : (s.send o).semAns = s.semAns := rfl
@[simp] theorem State.send_lath (s : State) (o : Out) : (s.send o).lath = s.lath := rfl
@[simp] theorem State.send_er (s : State) (o : Out) : (s.send o).er = s.er := rfl
@[simp] theorem State.send_scr (s : State) (o : Out) : (s.send o).scr = s.scr := rfl
@[simp] theorem State.send_ctl (s : State) (o : Out) : (s.send o).ctl = s.ctl := rfl
@[simp] theorem State.send_fab (s : State) (o : Out) : (s.send o).fab = s.fab := rfl
@[simp] theorem State.send_mem (s : State) (o : Out) : (s.send o).mem = s.mem := rfl
@[simp] theorem State.send_regions (s : State) (o : Out) : (s.send o).regions = s.regions := rfl
@[simp] theorem State.send_xng (s : State) (o : Out) : (s.send o).xng = s.xng := rfl
@[simp] theorem State.send_arb (s : State) (o : Out) : (s.send o).arb = s.arb := rfl
@[simp] theorem State.send_sec (s : State) (o : Out) : (s.send o).sec = s.sec := rfl
@[simp] theorem State.send_pat (s : State) (o : Out) : (s.send o).pat = s.pat := rfl
@[simp] theorem State.send_sand (s : State) (o : Out) : (s.send o).sand = s.sand := rfl
@[simp] theorem State.send_expand (s : State) (o : Out) : (s.send o).expand = s.expand := rfl
@[simp] theorem State.send_rails (s : State) (o : Out) : (s.send o).rails = s.rails := rfl

@[simp] theorem State.setPort_pending (s : State) (p : Nat) (x : Port) : (s.setPort p x).pending = s.pending := rfl
@[simp] theorem State.setPort_out (s : State) (p : Nat) (x : Port) : (s.setPort p x).out = s.out := rfl
@[simp] theorem State.setPort_free (s : State) (p : Nat) (x : Port) : (s.setPort p x).free = s.free := rfl
@[simp] theorem State.setPort_cores (s : State) (p : Nat) (x : Port) : (s.setPort p x).cores = s.cores := rfl
@[simp] theorem State.setPort_dflt (s : State) (p : Nat) (x : Port) : (s.setPort p x).dflt = s.dflt := rfl
@[simp] theorem State.setPort_bays (s : State) (p : Nat) (x : Port) : (s.setPort p x).bays = s.bays := rfl
@[simp] theorem State.setPort_dregs (s : State) (p : Nat) (x : Port) : (s.setPort p x).dregs = s.dregs := rfl
@[simp] theorem State.setPort_sem (s : State) (p : Nat) (x : Port) : (s.setPort p x).sem = s.sem := rfl
@[simp] theorem State.setPort_semIn (s : State) (p : Nat) (x : Port) : (s.setPort p x).semIn = s.semIn := rfl
@[simp] theorem State.setPort_semPark (s : State) (p : Nat) (x : Port) : (s.setPort p x).semPark = s.semPark := rfl
@[simp] theorem State.setPort_semLate (s : State) (p : Nat) (x : Port) : (s.setPort p x).semLate = s.semLate := rfl
@[simp] theorem State.setPort_semAns (s : State) (p : Nat) (x : Port) : (s.setPort p x).semAns = s.semAns := rfl
@[simp] theorem State.setPort_lath (s : State) (p : Nat) (x : Port) : (s.setPort p x).lath = s.lath := rfl
@[simp] theorem State.setPort_er (s : State) (p : Nat) (x : Port) : (s.setPort p x).er = s.er := rfl
@[simp] theorem State.setPort_scr (s : State) (p : Nat) (x : Port) : (s.setPort p x).scr = s.scr := rfl
@[simp] theorem State.setPort_ctl (s : State) (p : Nat) (x : Port) : (s.setPort p x).ctl = s.ctl := rfl
@[simp] theorem State.setPort_fab (s : State) (p : Nat) (x : Port) :
    (s.setPort p x).fab = { s.fab with ports := aput s.fab.ports p x } := rfl
@[simp] theorem State.setPort_mem (s : State) (p : Nat) (x : Port) : (s.setPort p x).mem = s.mem := rfl
@[simp] theorem State.setPort_regions (s : State) (p : Nat) (x : Port) : (s.setPort p x).regions = s.regions := rfl
@[simp] theorem State.setPort_xng (s : State) (p : Nat) (x : Port) : (s.setPort p x).xng = s.xng := rfl
@[simp] theorem State.setPort_arb (s : State) (p : Nat) (x : Port) : (s.setPort p x).arb = s.arb := rfl
@[simp] theorem State.setPort_sec (s : State) (p : Nat) (x : Port) : (s.setPort p x).sec = s.sec := rfl
@[simp] theorem State.setPort_pat (s : State) (p : Nat) (x : Port) : (s.setPort p x).pat = s.pat := rfl
@[simp] theorem State.setPort_sand (s : State) (p : Nat) (x : Port) : (s.setPort p x).sand = s.sand := rfl
@[simp] theorem State.setPort_expand (s : State) (p : Nat) (x : Port) : (s.setPort p x).expand = s.expand := rfl
@[simp] theorem State.setPort_rails (s : State) (p : Nat) (x : Port) : (s.setPort p x).rails = s.rails := rfl

@[simp] theorem State.setRegion_pending (s : State) (r : Nat) (x : Region) :
    (s.setRegion r x).pending = s.pending := rfl
@[simp] theorem State.setRegion_out (s : State) (r : Nat) (x : Region) : (s.setRegion r x).out = s.out := rfl
@[simp] theorem State.setRegion_free (s : State) (r : Nat) (x : Region) : (s.setRegion r x).free = s.free := rfl
@[simp] theorem State.setRegion_cores (s : State) (r : Nat) (x : Region) : (s.setRegion r x).cores = s.cores := rfl
@[simp] theorem State.setRegion_dflt (s : State) (r : Nat) (x : Region) : (s.setRegion r x).dflt = s.dflt := rfl
@[simp] theorem State.setRegion_bays (s : State) (r : Nat) (x : Region) : (s.setRegion r x).bays = s.bays := rfl
@[simp] theorem State.setRegion_dregs (s : State) (r : Nat) (x : Region) : (s.setRegion r x).dregs = s.dregs := rfl
@[simp] theorem State.setRegion_sem (s : State) (r : Nat) (x : Region) : (s.setRegion r x).sem = s.sem := rfl
@[simp] theorem State.setRegion_semIn (s : State) (r : Nat) (x : Region) : (s.setRegion r x).semIn = s.semIn := rfl
@[simp] theorem State.setRegion_semPark (s : State) (r : Nat) (x : Region) :
    (s.setRegion r x).semPark = s.semPark := rfl
@[simp] theorem State.setRegion_semLate (s : State) (r : Nat) (x : Region) :
    (s.setRegion r x).semLate = s.semLate := rfl
@[simp] theorem State.setRegion_semAns (s : State) (r : Nat) (x : Region) : (s.setRegion r x).semAns = s.semAns := rfl
@[simp] theorem State.setRegion_lath (s : State) (r : Nat) (x : Region) : (s.setRegion r x).lath = s.lath := rfl
@[simp] theorem State.setRegion_er (s : State) (r : Nat) (x : Region) : (s.setRegion r x).er = s.er := rfl
@[simp] theorem State.setRegion_scr (s : State) (r : Nat) (x : Region) : (s.setRegion r x).scr = s.scr := rfl
@[simp] theorem State.setRegion_ctl (s : State) (r : Nat) (x : Region) : (s.setRegion r x).ctl = s.ctl := rfl
@[simp] theorem State.setRegion_fab (s : State) (r : Nat) (x : Region) : (s.setRegion r x).fab = s.fab := rfl
@[simp] theorem State.setRegion_mem (s : State) (r : Nat) (x : Region) : (s.setRegion r x).mem = s.mem := rfl
@[simp] theorem State.setRegion_regions (s : State) (r : Nat) (x : Region) :
    (s.setRegion r x).regions = aput s.regions r x := rfl
@[simp] theorem State.setRegion_xng (s : State) (r : Nat) (x : Region) : (s.setRegion r x).xng = s.xng := rfl
@[simp] theorem State.setRegion_arb (s : State) (r : Nat) (x : Region) : (s.setRegion r x).arb = s.arb := rfl
@[simp] theorem State.setRegion_sec (s : State) (r : Nat) (x : Region) : (s.setRegion r x).sec = s.sec := rfl
@[simp] theorem State.setRegion_pat (s : State) (r : Nat) (x : Region) : (s.setRegion r x).pat = s.pat := rfl
@[simp] theorem State.setRegion_sand (s : State) (r : Nat) (x : Region) : (s.setRegion r x).sand = s.sand := rfl
@[simp] theorem State.setRegion_expand (s : State) (r : Nat) (x : Region) : (s.setRegion r x).expand = s.expand := rfl
@[simp] theorem State.setRegion_rails (s : State) (r : Nat) (x : Region) : (s.setRegion r x).rails = s.rails := rfl

@[simp] theorem State.setSem_pending (s : State) (off : Nat) (v : Word) : (s.setSem off v).pending = s.pending := rfl
@[simp] theorem State.setSem_out (s : State) (off : Nat) (v : Word) : (s.setSem off v).out = s.out := rfl
@[simp] theorem State.setSem_free (s : State) (off : Nat) (v : Word) : (s.setSem off v).free = s.free := rfl
@[simp] theorem State.setSem_cores (s : State) (off : Nat) (v : Word) : (s.setSem off v).cores = s.cores := rfl
@[simp] theorem State.setSem_dflt (s : State) (off : Nat) (v : Word) : (s.setSem off v).dflt = s.dflt := rfl
@[simp] theorem State.setSem_bays (s : State) (off : Nat) (v : Word) : (s.setSem off v).bays = s.bays := rfl
@[simp] theorem State.setSem_dregs (s : State) (off : Nat) (v : Word) : (s.setSem off v).dregs = s.dregs := rfl
@[simp] theorem State.setSem_sem (s : State) (off : Nat) (v : Word) : (s.setSem off v).sem = aput s.sem off v := rfl
@[simp] theorem State.setSem_semIn (s : State) (off : Nat) (v : Word) : (s.setSem off v).semIn = s.semIn := rfl
@[simp] theorem State.setSem_semPark (s : State) (off : Nat) (v : Word) : (s.setSem off v).semPark = s.semPark := rfl
@[simp] theorem State.setSem_semLate (s : State) (off : Nat) (v : Word) : (s.setSem off v).semLate = s.semLate := rfl
@[simp] theorem State.setSem_semAns (s : State) (off : Nat) (v : Word) : (s.setSem off v).semAns = s.semAns := rfl
@[simp] theorem State.setSem_lath (s : State) (off : Nat) (v : Word) : (s.setSem off v).lath = s.lath := rfl
@[simp] theorem State.setSem_er (s : State) (off : Nat) (v : Word) : (s.setSem off v).er = s.er := rfl
@[simp] theorem State.setSem_scr (s : State) (off : Nat) (v : Word) : (s.setSem off v).scr = s.scr := rfl
@[simp] theorem State.setSem_ctl (s : State) (off : Nat) (v : Word) : (s.setSem off v).ctl = s.ctl := rfl
@[simp] theorem State.setSem_fab (s : State) (off : Nat) (v : Word) : (s.setSem off v).fab = s.fab := rfl
@[simp] theorem State.setSem_mem (s : State) (off : Nat) (v : Word) : (s.setSem off v).mem = s.mem := rfl
@[simp] theorem State.setSem_regions (s : State) (off : Nat) (v : Word) : (s.setSem off v).regions = s.regions := rfl
@[simp] theorem State.setSem_xng (s : State) (off : Nat) (v : Word) : (s.setSem off v).xng = s.xng := rfl
@[simp] theorem State.setSem_arb (s : State) (off : Nat) (v : Word) : (s.setSem off v).arb = s.arb := rfl
@[simp] theorem State.setSem_sec (s : State) (off : Nat) (v : Word) : (s.setSem off v).sec = s.sec := rfl
@[simp] theorem State.setSem_pat (s : State) (off : Nat) (v : Word) : (s.setSem off v).pat = s.pat := rfl
@[simp] theorem State.setSem_sand (s : State) (off : Nat) (v : Word) : (s.setSem off v).sand = s.sand := rfl
@[simp] theorem State.setSem_expand (s : State) (off : Nat) (v : Word) : (s.setSem off v).expand = s.expand := rfl
@[simp] theorem State.setSem_rails (s : State) (off : Nat) (v : Word) : (s.setSem off v).rails = s.rails := rfl

@[simp] theorem State.toHome_pending (s : State) (place : Nat) (m : SemMsg) :
    (s.toHome place m).pending = s.pending := rfl
@[simp] theorem State.toHome_out (s : State) (place : Nat) (m : SemMsg) : (s.toHome place m).out = s.out := rfl
@[simp] theorem State.toHome_free (s : State) (place : Nat) (m : SemMsg) : (s.toHome place m).free = s.free := rfl
@[simp] theorem State.toHome_cores (s : State) (place : Nat) (m : SemMsg) : (s.toHome place m).cores = s.cores := rfl
@[simp] theorem State.toHome_dflt (s : State) (place : Nat) (m : SemMsg) : (s.toHome place m).dflt = s.dflt := rfl
@[simp] theorem State.toHome_bays (s : State) (place : Nat) (m : SemMsg) : (s.toHome place m).bays = s.bays := rfl
@[simp] theorem State.toHome_dregs (s : State) (place : Nat) (m : SemMsg) : (s.toHome place m).dregs = s.dregs := rfl
@[simp] theorem State.toHome_sem (s : State) (place : Nat) (m : SemMsg) : (s.toHome place m).sem = s.sem := rfl
@[simp] theorem State.toHome_semIn (s : State) (place : Nat) (m : SemMsg) :
    (s.toHome place m).semIn = aput s.semIn place (insMsg m (aget [] s.semIn place)) := rfl
@[simp] theorem State.toHome_semPark (s : State) (place : Nat) (m : SemMsg) :
    (s.toHome place m).semPark = s.semPark := rfl
@[simp] theorem State.toHome_semLate (s : State) (place : Nat) (m : SemMsg) :
    (s.toHome place m).semLate = s.semLate := rfl
@[simp] theorem State.toHome_semAns (s : State) (place : Nat) (m : SemMsg) :
    (s.toHome place m).semAns = s.semAns := rfl
@[simp] theorem State.toHome_lath (s : State) (place : Nat) (m : SemMsg) : (s.toHome place m).lath = s.lath := rfl
@[simp] theorem State.toHome_er (s : State) (place : Nat) (m : SemMsg) : (s.toHome place m).er = s.er := rfl
@[simp] theorem State.toHome_scr (s : State) (place : Nat) (m : SemMsg) : (s.toHome place m).scr = s.scr := rfl
@[simp] theorem State.toHome_ctl (s : State) (place : Nat) (m : SemMsg) : (s.toHome place m).ctl = s.ctl := rfl
@[simp] theorem State.toHome_fab (s : State) (place : Nat) (m : SemMsg) : (s.toHome place m).fab = s.fab := rfl
@[simp] theorem State.toHome_mem (s : State) (place : Nat) (m : SemMsg) : (s.toHome place m).mem = s.mem := rfl
@[simp] theorem State.toHome_regions (s : State) (place : Nat) (m : SemMsg) :
    (s.toHome place m).regions = s.regions := rfl
@[simp] theorem State.toHome_xng (s : State) (place : Nat) (m : SemMsg) : (s.toHome place m).xng = s.xng := rfl
@[simp] theorem State.toHome_arb (s : State) (place : Nat) (m : SemMsg) : (s.toHome place m).arb = s.arb := rfl
@[simp] theorem State.toHome_sec (s : State) (place : Nat) (m : SemMsg) : (s.toHome place m).sec = s.sec := rfl
@[simp] theorem State.toHome_pat (s : State) (place : Nat) (m : SemMsg) : (s.toHome place m).pat = s.pat := rfl
@[simp] theorem State.toHome_sand (s : State) (place : Nat) (m : SemMsg) : (s.toHome place m).sand = s.sand := rfl
@[simp] theorem State.toHome_expand (s : State) (place : Nat) (m : SemMsg) :
    (s.toHome place m).expand = s.expand := rfl
@[simp] theorem State.toHome_rails (s : State) (place : Nat) (m : SemMsg) : (s.toHome place m).rails = s.rails := rfl

@[simp] theorem State.onLath_pending (s : State) (m : LathMsg) : (s.onLath m).pending = s.pending := rfl
@[simp] theorem State.onLath_out (s : State) (m : LathMsg) : (s.onLath m).out = s.out := rfl
@[simp] theorem State.onLath_free (s : State) (m : LathMsg) : (s.onLath m).free = s.free := rfl
@[simp] theorem State.onLath_cores (s : State) (m : LathMsg) : (s.onLath m).cores = s.cores := rfl
@[simp] theorem State.onLath_dflt (s : State) (m : LathMsg) : (s.onLath m).dflt = s.dflt := rfl
@[simp] theorem State.onLath_bays (s : State) (m : LathMsg) : (s.onLath m).bays = s.bays := rfl
@[simp] theorem State.onLath_dregs (s : State) (m : LathMsg) : (s.onLath m).dregs = s.dregs := rfl
@[simp] theorem State.onLath_sem (s : State) (m : LathMsg) : (s.onLath m).sem = s.sem := rfl
@[simp] theorem State.onLath_semIn (s : State) (m : LathMsg) : (s.onLath m).semIn = s.semIn := rfl
@[simp] theorem State.onLath_semPark (s : State) (m : LathMsg) : (s.onLath m).semPark = s.semPark := rfl
@[simp] theorem State.onLath_semLate (s : State) (m : LathMsg) : (s.onLath m).semLate = s.semLate := rfl
@[simp] theorem State.onLath_semAns (s : State) (m : LathMsg) : (s.onLath m).semAns = s.semAns := rfl
@[simp] theorem State.onLath_lath (s : State) (m : LathMsg) : (s.onLath m).lath = s.lath ++ [m] := rfl
@[simp] theorem State.onLath_er (s : State) (m : LathMsg) : (s.onLath m).er = s.er := rfl
@[simp] theorem State.onLath_scr (s : State) (m : LathMsg) : (s.onLath m).scr = s.scr := rfl
@[simp] theorem State.onLath_ctl (s : State) (m : LathMsg) : (s.onLath m).ctl = s.ctl := rfl
@[simp] theorem State.onLath_fab (s : State) (m : LathMsg) : (s.onLath m).fab = s.fab := rfl
@[simp] theorem State.onLath_mem (s : State) (m : LathMsg) : (s.onLath m).mem = s.mem := rfl
@[simp] theorem State.onLath_regions (s : State) (m : LathMsg) : (s.onLath m).regions = s.regions := rfl
@[simp] theorem State.onLath_xng (s : State) (m : LathMsg) : (s.onLath m).xng = s.xng := rfl
@[simp] theorem State.onLath_arb (s : State) (m : LathMsg) : (s.onLath m).arb = s.arb := rfl
@[simp] theorem State.onLath_sec (s : State) (m : LathMsg) : (s.onLath m).sec = s.sec := rfl
@[simp] theorem State.onLath_pat (s : State) (m : LathMsg) : (s.onLath m).pat = s.pat := rfl
@[simp] theorem State.onLath_sand (s : State) (m : LathMsg) : (s.onLath m).sand = s.sand := rfl
@[simp] theorem State.onLath_expand (s : State) (m : LathMsg) : (s.onLath m).expand = s.expand := rfl
@[simp] theorem State.onLath_rails (s : State) (m : LathMsg) : (s.onLath m).rails = s.rails := rfl

/-! ### Fields of Core -/

@[simp] theorem Core.setReg_regs (k : Core) (off v : Nat) :
    (k.setReg off v).regs = aput k.regs off (v % 2 ^ 32) := rfl
@[simp] theorem Core.setReg_bm (k : Core) (off v : Nat) : (k.setReg off v).bm = k.bm := rfl
@[simp] theorem Core.setReg_sc (k : Core) (off v : Nat) : (k.setReg off v).sc = k.sc := rfl
@[simp] theorem Core.setReg_is (k : Core) (off v : Nat) : (k.setReg off v).is = k.is := rfl
@[simp] theorem Core.setReg_mx (k : Core) (off v : Nat) : (k.setReg off v).mx = k.mx := rfl
@[simp] theorem Core.setReg_ve (k : Core) (off v : Nat) : (k.setReg off v).ve = k.ve := rfl
@[simp] theorem Core.setReg_sp (k : Core) (off v : Nat) : (k.setReg off v).sp = k.sp := rfl
@[simp] theorem Core.setReg_lm (k : Core) (off v : Nat) : (k.setReg off v).lm = k.lm := rfl
@[simp] theorem Core.setReg_lmFree (k : Core) (off v : Nat) : (k.setReg off v).lmFree = k.lmFree := rfl
@[simp] theorem Core.setReg_readers (k : Core) (off v : Nat) : (k.setReg off v).readers = k.readers := rfl
@[simp] theorem Core.setReg_inflight (k : Core) (off v : Nat) : (k.setReg off v).inflight = k.inflight := rfl
@[simp] theorem Core.setReg_se (k : Core) (off v : Nat) : (k.setReg off v).se = k.se := rfl
@[simp] theorem Core.setReg_lines (k : Core) (off v : Nat) : (k.setReg off v).lines = k.lines := rfl
@[simp] theorem Core.setReg_ext (k : Core) (off v : Nat) : (k.setReg off v).ext = k.ext := rfl
@[simp] theorem Core.setReg_extWait (k : Core) (off v : Nat) : (k.setReg off v).extWait = k.extWait := rfl
@[simp] theorem Core.setReg_stn (k : Core) (off v : Nat) : (k.setReg off v).stn = k.stn := rfl
@[simp] theorem Core.setReg_pnl (k : Core) (off v : Nat) : (k.setReg off v).pnl = k.pnl := rfl
@[simp] theorem Core.setReg_qs (k : Core) (off v : Nat) : (k.setReg off v).qs = k.qs := rfl
@[simp] theorem Core.setReg_rts (k : Core) (off v : Nat) : (k.setReg off v).rts = k.rts := rfl
@[simp] theorem Core.setReg_mbs (k : Core) (off v : Nat) : (k.setReg off v).mbs = k.mbs := rfl
@[simp] theorem Core.setReg_sync (k : Core) (off v : Nat) : (k.setReg off v).sync = k.sync := rfl
@[simp] theorem Core.setReg_mbOut (k : Core) (off v : Nat) : (k.setReg off v).mbOut = k.mbOut := rfl
@[simp] theorem Core.setReg_sand (k : Core) (off v : Nat) : (k.setReg off v).sand = k.sand := rfl
@[simp] theorem Core.setReg_halted (k : Core) (off v : Nat) : (k.setReg off v).halted = k.halted := rfl
@[simp] theorem Core.setReg_sandLast (k : Core) (off v : Nat) : (k.setReg off v).sandLast = k.sandLast := rfl

@[simp] theorem Core.bump_regs (k : Core) (off : Nat) : (k.bump off).regs = abump k.regs off 1 := rfl
@[simp] theorem Core.bump_bm (k : Core) (off : Nat) : (k.bump off).bm = k.bm := rfl
@[simp] theorem Core.bump_sc (k : Core) (off : Nat) : (k.bump off).sc = k.sc := rfl
@[simp] theorem Core.bump_is (k : Core) (off : Nat) : (k.bump off).is = k.is := rfl
@[simp] theorem Core.bump_mx (k : Core) (off : Nat) : (k.bump off).mx = k.mx := rfl
@[simp] theorem Core.bump_ve (k : Core) (off : Nat) : (k.bump off).ve = k.ve := rfl
@[simp] theorem Core.bump_sp (k : Core) (off : Nat) : (k.bump off).sp = k.sp := rfl
@[simp] theorem Core.bump_lm (k : Core) (off : Nat) : (k.bump off).lm = k.lm := rfl
@[simp] theorem Core.bump_lmFree (k : Core) (off : Nat) : (k.bump off).lmFree = k.lmFree := rfl
@[simp] theorem Core.bump_readers (k : Core) (off : Nat) : (k.bump off).readers = k.readers := rfl
@[simp] theorem Core.bump_inflight (k : Core) (off : Nat) : (k.bump off).inflight = k.inflight := rfl
@[simp] theorem Core.bump_se (k : Core) (off : Nat) : (k.bump off).se = k.se := rfl
@[simp] theorem Core.bump_lines (k : Core) (off : Nat) : (k.bump off).lines = k.lines := rfl
@[simp] theorem Core.bump_ext (k : Core) (off : Nat) : (k.bump off).ext = k.ext := rfl
@[simp] theorem Core.bump_extWait (k : Core) (off : Nat) : (k.bump off).extWait = k.extWait := rfl
@[simp] theorem Core.bump_stn (k : Core) (off : Nat) : (k.bump off).stn = k.stn := rfl
@[simp] theorem Core.bump_pnl (k : Core) (off : Nat) : (k.bump off).pnl = k.pnl := rfl
@[simp] theorem Core.bump_qs (k : Core) (off : Nat) : (k.bump off).qs = k.qs := rfl
@[simp] theorem Core.bump_rts (k : Core) (off : Nat) : (k.bump off).rts = k.rts := rfl
@[simp] theorem Core.bump_mbs (k : Core) (off : Nat) : (k.bump off).mbs = k.mbs := rfl
@[simp] theorem Core.bump_sync (k : Core) (off : Nat) : (k.bump off).sync = k.sync := rfl
@[simp] theorem Core.bump_mbOut (k : Core) (off : Nat) : (k.bump off).mbOut = k.mbOut := rfl
@[simp] theorem Core.bump_sand (k : Core) (off : Nat) : (k.bump off).sand = k.sand := rfl
@[simp] theorem Core.bump_halted (k : Core) (off : Nat) : (k.bump off).halted = k.halted := rfl
@[simp] theorem Core.bump_sandLast (k : Core) (off : Nat) : (k.bump off).sandLast = k.sandLast := rfl

@[simp] theorem Core.bumpBy_regs (k : Core) (off n : Nat) : (k.bumpBy off n).regs = abump k.regs off n := rfl
@[simp] theorem Core.bumpBy_bm (k : Core) (off n : Nat) : (k.bumpBy off n).bm = k.bm := rfl
@[simp] theorem Core.bumpBy_sc (k : Core) (off n : Nat) : (k.bumpBy off n).sc = k.sc := rfl
@[simp] theorem Core.bumpBy_is (k : Core) (off n : Nat) : (k.bumpBy off n).is = k.is := rfl
@[simp] theorem Core.bumpBy_mx (k : Core) (off n : Nat) : (k.bumpBy off n).mx = k.mx := rfl
@[simp] theorem Core.bumpBy_ve (k : Core) (off n : Nat) : (k.bumpBy off n).ve = k.ve := rfl
@[simp] theorem Core.bumpBy_sp (k : Core) (off n : Nat) : (k.bumpBy off n).sp = k.sp := rfl
@[simp] theorem Core.bumpBy_lm (k : Core) (off n : Nat) : (k.bumpBy off n).lm = k.lm := rfl
@[simp] theorem Core.bumpBy_lmFree (k : Core) (off n : Nat) : (k.bumpBy off n).lmFree = k.lmFree := rfl
@[simp] theorem Core.bumpBy_readers (k : Core) (off n : Nat) : (k.bumpBy off n).readers = k.readers := rfl
@[simp] theorem Core.bumpBy_inflight (k : Core) (off n : Nat) : (k.bumpBy off n).inflight = k.inflight := rfl
@[simp] theorem Core.bumpBy_se (k : Core) (off n : Nat) : (k.bumpBy off n).se = k.se := rfl
@[simp] theorem Core.bumpBy_lines (k : Core) (off n : Nat) : (k.bumpBy off n).lines = k.lines := rfl
@[simp] theorem Core.bumpBy_ext (k : Core) (off n : Nat) : (k.bumpBy off n).ext = k.ext := rfl
@[simp] theorem Core.bumpBy_extWait (k : Core) (off n : Nat) : (k.bumpBy off n).extWait = k.extWait := rfl
@[simp] theorem Core.bumpBy_stn (k : Core) (off n : Nat) : (k.bumpBy off n).stn = k.stn := rfl
@[simp] theorem Core.bumpBy_pnl (k : Core) (off n : Nat) : (k.bumpBy off n).pnl = k.pnl := rfl
@[simp] theorem Core.bumpBy_qs (k : Core) (off n : Nat) : (k.bumpBy off n).qs = k.qs := rfl
@[simp] theorem Core.bumpBy_rts (k : Core) (off n : Nat) : (k.bumpBy off n).rts = k.rts := rfl
@[simp] theorem Core.bumpBy_mbs (k : Core) (off n : Nat) : (k.bumpBy off n).mbs = k.mbs := rfl
@[simp] theorem Core.bumpBy_sync (k : Core) (off n : Nat) : (k.bumpBy off n).sync = k.sync := rfl
@[simp] theorem Core.bumpBy_mbOut (k : Core) (off n : Nat) : (k.bumpBy off n).mbOut = k.mbOut := rfl
@[simp] theorem Core.bumpBy_sand (k : Core) (off n : Nat) : (k.bumpBy off n).sand = k.sand := rfl
@[simp] theorem Core.bumpBy_halted (k : Core) (off n : Nat) : (k.bumpBy off n).halted = k.halted := rfl
@[simp] theorem Core.bumpBy_sandLast (k : Core) (off n : Nat) : (k.bumpBy off n).sandLast = k.sandLast := rfl

@[simp] theorem Core.setSeg_regs (k : Core) (n st : Nat) : (k.setSeg n st).regs = k.regs := rfl
@[simp] theorem Core.setSeg_bm (k : Core) (n st : Nat) : (k.setSeg n st).bm = k.bm := rfl
@[simp] theorem Core.setSeg_sc (k : Core) (n st : Nat) : (k.setSeg n st).sc = k.sc := rfl
@[simp] theorem Core.setSeg_is (k : Core) (n st : Nat) : (k.setSeg n st).is = k.is := rfl
@[simp] theorem Core.setSeg_mx (k : Core) (n st : Nat) : (k.setSeg n st).mx = k.mx := rfl
@[simp] theorem Core.setSeg_ve (k : Core) (n st : Nat) : (k.setSeg n st).ve = k.ve := rfl
@[simp] theorem Core.setSeg_sp (k : Core) (n st : Nat) :
    (k.setSeg n st).sp = { k.sp with seg := aput k.sp.seg n st } := rfl
@[simp] theorem Core.setSeg_lm (k : Core) (n st : Nat) : (k.setSeg n st).lm = k.lm := rfl
@[simp] theorem Core.setSeg_lmFree (k : Core) (n st : Nat) : (k.setSeg n st).lmFree = k.lmFree := rfl
@[simp] theorem Core.setSeg_readers (k : Core) (n st : Nat) : (k.setSeg n st).readers = k.readers := rfl
@[simp] theorem Core.setSeg_inflight (k : Core) (n st : Nat) : (k.setSeg n st).inflight = k.inflight := rfl
@[simp] theorem Core.setSeg_se (k : Core) (n st : Nat) : (k.setSeg n st).se = k.se := rfl
@[simp] theorem Core.setSeg_lines (k : Core) (n st : Nat) : (k.setSeg n st).lines = k.lines := rfl
@[simp] theorem Core.setSeg_ext (k : Core) (n st : Nat) : (k.setSeg n st).ext = k.ext := rfl
@[simp] theorem Core.setSeg_extWait (k : Core) (n st : Nat) : (k.setSeg n st).extWait = k.extWait := rfl
@[simp] theorem Core.setSeg_stn (k : Core) (n st : Nat) : (k.setSeg n st).stn = k.stn := rfl
@[simp] theorem Core.setSeg_pnl (k : Core) (n st : Nat) : (k.setSeg n st).pnl = k.pnl := rfl
@[simp] theorem Core.setSeg_qs (k : Core) (n st : Nat) : (k.setSeg n st).qs = k.qs := rfl
@[simp] theorem Core.setSeg_rts (k : Core) (n st : Nat) : (k.setSeg n st).rts = k.rts := rfl
@[simp] theorem Core.setSeg_mbs (k : Core) (n st : Nat) : (k.setSeg n st).mbs = k.mbs := rfl
@[simp] theorem Core.setSeg_sync (k : Core) (n st : Nat) : (k.setSeg n st).sync = k.sync := rfl
@[simp] theorem Core.setSeg_mbOut (k : Core) (n st : Nat) : (k.setSeg n st).mbOut = k.mbOut := rfl
@[simp] theorem Core.setSeg_sand (k : Core) (n st : Nat) : (k.setSeg n st).sand = k.sand := rfl
@[simp] theorem Core.setSeg_halted (k : Core) (n st : Nat) : (k.setSeg n st).halted = k.halted := rfl
@[simp] theorem Core.setSeg_sandLast (k : Core) (n st : Nat) : (k.setSeg n st).sandLast = k.sandLast := rfl

@[simp] theorem Core.setPoison_regs (k : Core) (row : Nat) (p : Bool) : (k.setPoison row p).regs = k.regs := rfl
@[simp] theorem Core.setPoison_bm (k : Core) (row : Nat) (p : Bool) : (k.setPoison row p).bm = k.bm := rfl
@[simp] theorem Core.setPoison_sc (k : Core) (row : Nat) (p : Bool) : (k.setPoison row p).sc = k.sc := rfl
@[simp] theorem Core.setPoison_is (k : Core) (row : Nat) (p : Bool) : (k.setPoison row p).is = k.is := rfl
@[simp] theorem Core.setPoison_mx (k : Core) (row : Nat) (p : Bool) : (k.setPoison row p).mx = k.mx := rfl
@[simp] theorem Core.setPoison_ve (k : Core) (row : Nat) (p : Bool) : (k.setPoison row p).ve = k.ve := rfl
@[simp] theorem Core.setPoison_sp (k : Core) (row : Nat) (p : Bool) :
    (k.setPoison row p).sp =
      { k.sp with poison := if p then aput k.sp.poison row true else adel k.sp.poison row } := rfl
@[simp] theorem Core.setPoison_lm (k : Core) (row : Nat) (p : Bool) : (k.setPoison row p).lm = k.lm := rfl
@[simp] theorem Core.setPoison_lmFree (k : Core) (row : Nat) (p : Bool) : (k.setPoison row p).lmFree = k.lmFree := rfl
@[simp] theorem Core.setPoison_readers (k : Core) (row : Nat) (p : Bool) :
    (k.setPoison row p).readers = k.readers := rfl
@[simp] theorem Core.setPoison_inflight (k : Core) (row : Nat) (p : Bool) :
    (k.setPoison row p).inflight = k.inflight := rfl
@[simp] theorem Core.setPoison_se (k : Core) (row : Nat) (p : Bool) : (k.setPoison row p).se = k.se := rfl
@[simp] theorem Core.setPoison_lines (k : Core) (row : Nat) (p : Bool) : (k.setPoison row p).lines = k.lines := rfl
@[simp] theorem Core.setPoison_ext (k : Core) (row : Nat) (p : Bool) : (k.setPoison row p).ext = k.ext := rfl
@[simp] theorem Core.setPoison_extWait (k : Core) (row : Nat) (p : Bool) :
    (k.setPoison row p).extWait = k.extWait := rfl
@[simp] theorem Core.setPoison_stn (k : Core) (row : Nat) (p : Bool) : (k.setPoison row p).stn = k.stn := rfl
@[simp] theorem Core.setPoison_pnl (k : Core) (row : Nat) (p : Bool) : (k.setPoison row p).pnl = k.pnl := rfl
@[simp] theorem Core.setPoison_qs (k : Core) (row : Nat) (p : Bool) : (k.setPoison row p).qs = k.qs := rfl
@[simp] theorem Core.setPoison_rts (k : Core) (row : Nat) (p : Bool) : (k.setPoison row p).rts = k.rts := rfl
@[simp] theorem Core.setPoison_mbs (k : Core) (row : Nat) (p : Bool) : (k.setPoison row p).mbs = k.mbs := rfl
@[simp] theorem Core.setPoison_sync (k : Core) (row : Nat) (p : Bool) : (k.setPoison row p).sync = k.sync := rfl
@[simp] theorem Core.setPoison_mbOut (k : Core) (row : Nat) (p : Bool) : (k.setPoison row p).mbOut = k.mbOut := rfl
@[simp] theorem Core.setPoison_sand (k : Core) (row : Nat) (p : Bool) : (k.setPoison row p).sand = k.sand := rfl
@[simp] theorem Core.setPoison_halted (k : Core) (row : Nat) (p : Bool) : (k.setPoison row p).halted = k.halted := rfl
@[simp] theorem Core.setPoison_sandLast (k : Core) (row : Nat) (p : Bool) :
    (k.setPoison row p).sandLast = k.sandLast := rfl

@[simp] theorem Core.later_regs (k : Core) (e : Effect) (pipe : Bool) (now lat lat2 : Nat) :
    (k.later e pipe now lat lat2).regs = k.regs := rfl
@[simp] theorem Core.later_bm (k : Core) (e : Effect) (pipe : Bool) (now lat lat2 : Nat) :
    (k.later e pipe now lat lat2).bm = k.bm := rfl
@[simp] theorem Core.later_sc (k : Core) (e : Effect) (pipe : Bool) (now lat lat2 : Nat) :
    (k.later e pipe now lat lat2).sc = k.sc := rfl
@[simp] theorem Core.later_is (k : Core) (e : Effect) (pipe : Bool) (now lat lat2 : Nat) :
    (k.later e pipe now lat lat2).is = { k.is with serial := k.is.serial + 1 } := rfl
@[simp] theorem Core.later_mx (k : Core) (e : Effect) (pipe : Bool) (now lat lat2 : Nat) :
    (k.later e pipe now lat lat2).mx = k.mx := rfl
@[simp] theorem Core.later_ve (k : Core) (e : Effect) (pipe : Bool) (now lat lat2 : Nat) :
    (k.later e pipe now lat lat2).ve = k.ve := rfl
@[simp] theorem Core.later_sp (k : Core) (e : Effect) (pipe : Bool) (now lat lat2 : Nat) :
    (k.later e pipe now lat lat2).sp = k.sp := rfl
@[simp] theorem Core.later_lm (k : Core) (e : Effect) (pipe : Bool) (now lat lat2 : Nat) :
    (k.later e pipe now lat lat2).lm = k.lm := rfl
@[simp] theorem Core.later_lmFree (k : Core) (e : Effect) (pipe : Bool) (now lat lat2 : Nat) :
    (k.later e pipe now lat lat2).lmFree = k.lmFree := rfl
@[simp] theorem Core.later_readers (k : Core) (e : Effect) (pipe : Bool) (now lat lat2 : Nat) :
    (k.later e pipe now lat lat2).readers = k.readers := rfl
@[simp] theorem Core.later_inflight (k : Core) (e : Effect) (pipe : Bool) (now lat lat2 : Nat) :
    (k.later e pipe now lat lat2).inflight = k.inflight ++ [⟨e, pipe, now + lat, now + lat2, k.is.serial, 0⟩] := rfl
@[simp] theorem Core.later_se (k : Core) (e : Effect) (pipe : Bool) (now lat lat2 : Nat) :
    (k.later e pipe now lat lat2).se = k.se := rfl
@[simp] theorem Core.later_lines (k : Core) (e : Effect) (pipe : Bool) (now lat lat2 : Nat) :
    (k.later e pipe now lat lat2).lines = k.lines := rfl
@[simp] theorem Core.later_ext (k : Core) (e : Effect) (pipe : Bool) (now lat lat2 : Nat) :
    (k.later e pipe now lat lat2).ext = k.ext := rfl
@[simp] theorem Core.later_extWait (k : Core) (e : Effect) (pipe : Bool) (now lat lat2 : Nat) :
    (k.later e pipe now lat lat2).extWait = k.extWait := rfl
@[simp] theorem Core.later_stn (k : Core) (e : Effect) (pipe : Bool) (now lat lat2 : Nat) :
    (k.later e pipe now lat lat2).stn = k.stn := rfl
@[simp] theorem Core.later_pnl (k : Core) (e : Effect) (pipe : Bool) (now lat lat2 : Nat) :
    (k.later e pipe now lat lat2).pnl = k.pnl := rfl
@[simp] theorem Core.later_qs (k : Core) (e : Effect) (pipe : Bool) (now lat lat2 : Nat) :
    (k.later e pipe now lat lat2).qs = k.qs := rfl
@[simp] theorem Core.later_rts (k : Core) (e : Effect) (pipe : Bool) (now lat lat2 : Nat) :
    (k.later e pipe now lat lat2).rts = k.rts := rfl
@[simp] theorem Core.later_mbs (k : Core) (e : Effect) (pipe : Bool) (now lat lat2 : Nat) :
    (k.later e pipe now lat lat2).mbs = k.mbs := rfl
@[simp] theorem Core.later_sync (k : Core) (e : Effect) (pipe : Bool) (now lat lat2 : Nat) :
    (k.later e pipe now lat lat2).sync = k.sync := rfl
@[simp] theorem Core.later_mbOut (k : Core) (e : Effect) (pipe : Bool) (now lat lat2 : Nat) :
    (k.later e pipe now lat lat2).mbOut = k.mbOut := rfl
@[simp] theorem Core.later_sand (k : Core) (e : Effect) (pipe : Bool) (now lat lat2 : Nat) :
    (k.later e pipe now lat lat2).sand = k.sand := rfl
@[simp] theorem Core.later_halted (k : Core) (e : Effect) (pipe : Bool) (now lat lat2 : Nat) :
    (k.later e pipe now lat lat2).halted = k.halted := rfl
@[simp] theorem Core.later_sandLast (k : Core) (e : Effect) (pipe : Bool) (now lat lat2 : Nat) :
    (k.later e pipe now lat lat2).sandLast = k.sandLast := rfl

@[simp] theorem Core.toS_regs (k : Core) (r : Nat) (v : Word) (lat lat2 : Nat) :
    (k.toS r v lat lat2).regs = k.regs := rfl
@[simp] theorem Core.toS_bm (k : Core) (r : Nat) (v : Word) (lat lat2 : Nat) :
    (k.toS r v lat lat2).bm = k.bm := rfl
@[simp] theorem Core.toS_sc (k : Core) (r : Nat) (v : Word) (lat lat2 : Nat) :
    (k.toS r v lat lat2).sc = k.sc := rfl
@[simp] theorem Core.toS_is (k : Core) (r : Nat) (v : Word) (lat lat2 : Nat) :
    (k.toS r v lat lat2).is = { k.is with serial := k.is.serial + 1 } := rfl
@[simp] theorem Core.toS_mx (k : Core) (r : Nat) (v : Word) (lat lat2 : Nat) :
    (k.toS r v lat lat2).mx = k.mx := rfl
@[simp] theorem Core.toS_ve (k : Core) (r : Nat) (v : Word) (lat lat2 : Nat) :
    (k.toS r v lat lat2).ve = k.ve := rfl
@[simp] theorem Core.toS_sp (k : Core) (r : Nat) (v : Word) (lat lat2 : Nat) :
    (k.toS r v lat lat2).sp = k.sp := rfl
@[simp] theorem Core.toS_lm (k : Core) (r : Nat) (v : Word) (lat lat2 : Nat) :
    (k.toS r v lat lat2).lm = k.lm := rfl
@[simp] theorem Core.toS_lmFree (k : Core) (r : Nat) (v : Word) (lat lat2 : Nat) :
    (k.toS r v lat lat2).lmFree = k.lmFree := rfl
@[simp] theorem Core.toS_readers (k : Core) (r : Nat) (v : Word) (lat lat2 : Nat) :
    (k.toS r v lat lat2).readers = k.readers := rfl
@[simp] theorem Core.toS_inflight (k : Core) (r : Nat) (v : Word) (lat lat2 : Nat) :
    (k.toS r v lat lat2).inflight = k.inflight ++ [⟨.sreg r v, true, k.is.clk + lat, k.is.clk + lat2, k.is.serial, 3⟩] := rfl
@[simp] theorem Core.toS_se (k : Core) (r : Nat) (v : Word) (lat lat2 : Nat) :
    (k.toS r v lat lat2).se = k.se := rfl
@[simp] theorem Core.toS_lines (k : Core) (r : Nat) (v : Word) (lat lat2 : Nat) :
    (k.toS r v lat lat2).lines = k.lines := rfl
@[simp] theorem Core.toS_ext (k : Core) (r : Nat) (v : Word) (lat lat2 : Nat) :
    (k.toS r v lat lat2).ext = k.ext := rfl
@[simp] theorem Core.toS_extWait (k : Core) (r : Nat) (v : Word) (lat lat2 : Nat) :
    (k.toS r v lat lat2).extWait = k.extWait := rfl
@[simp] theorem Core.toS_stn (k : Core) (r : Nat) (v : Word) (lat lat2 : Nat) :
    (k.toS r v lat lat2).stn = k.stn := rfl
@[simp] theorem Core.toS_pnl (k : Core) (r : Nat) (v : Word) (lat lat2 : Nat) :
    (k.toS r v lat lat2).pnl = k.pnl := rfl
@[simp] theorem Core.toS_qs (k : Core) (r : Nat) (v : Word) (lat lat2 : Nat) :
    (k.toS r v lat lat2).qs = k.qs := rfl
@[simp] theorem Core.toS_rts (k : Core) (r : Nat) (v : Word) (lat lat2 : Nat) :
    (k.toS r v lat lat2).rts = k.rts := rfl
@[simp] theorem Core.toS_mbs (k : Core) (r : Nat) (v : Word) (lat lat2 : Nat) :
    (k.toS r v lat lat2).mbs = k.mbs := rfl
@[simp] theorem Core.toS_sync (k : Core) (r : Nat) (v : Word) (lat lat2 : Nat) :
    (k.toS r v lat lat2).sync = k.sync := rfl
@[simp] theorem Core.toS_mbOut (k : Core) (r : Nat) (v : Word) (lat lat2 : Nat) :
    (k.toS r v lat lat2).mbOut = k.mbOut := rfl
@[simp] theorem Core.toS_sand (k : Core) (r : Nat) (v : Word) (lat lat2 : Nat) :
    (k.toS r v lat lat2).sand = k.sand := rfl
@[simp] theorem Core.toS_halted (k : Core) (r : Nat) (v : Word) (lat lat2 : Nat) :
    (k.toS r v lat lat2).halted = k.halted := rfl
@[simp] theorem Core.toS_sandLast (k : Core) (r : Nat) (v : Word) (lat lat2 : Nat) :
    (k.toS r v lat lat2).sandLast = k.sandLast := rfl

@[simp] theorem Core.usePort_regs (k : Core) (w : Bool) (row rank : Nat) : (k.usePort w row rank).regs = k.regs := rfl
@[simp] theorem Core.usePort_bm (k : Core) (w : Bool) (row rank : Nat) : (k.usePort w row rank).bm = k.bm := rfl
@[simp] theorem Core.usePort_sc (k : Core) (w : Bool) (row rank : Nat) : (k.usePort w row rank).sc = k.sc := rfl
@[simp] theorem Core.usePort_is (k : Core) (w : Bool) (row rank : Nat) :
    (k.usePort w row rank).is =
      { k.is with ports := (w, bankOf row, row, rank) :: k.is.ports, tok := k.is.tok + 1 } := rfl
@[simp] theorem Core.usePort_mx (k : Core) (w : Bool) (row rank : Nat) : (k.usePort w row rank).mx = k.mx := rfl
@[simp] theorem Core.usePort_ve (k : Core) (w : Bool) (row rank : Nat) : (k.usePort w row rank).ve = k.ve := rfl
@[simp] theorem Core.usePort_sp (k : Core) (w : Bool) (row rank : Nat) : (k.usePort w row rank).sp = k.sp := rfl
@[simp] theorem Core.usePort_lm (k : Core) (w : Bool) (row rank : Nat) : (k.usePort w row rank).lm = k.lm := rfl
@[simp] theorem Core.usePort_lmFree (k : Core) (w : Bool) (row rank : Nat) :
    (k.usePort w row rank).lmFree = k.lmFree := rfl
@[simp] theorem Core.usePort_readers (k : Core) (w : Bool) (row rank : Nat) :
    (k.usePort w row rank).readers = k.readers := rfl
@[simp] theorem Core.usePort_inflight (k : Core) (w : Bool) (row rank : Nat) :
    (k.usePort w row rank).inflight = k.inflight := rfl
@[simp] theorem Core.usePort_se (k : Core) (w : Bool) (row rank : Nat) : (k.usePort w row rank).se = k.se := rfl
@[simp] theorem Core.usePort_lines (k : Core) (w : Bool) (row rank : Nat) :
    (k.usePort w row rank).lines = k.lines := rfl
@[simp] theorem Core.usePort_ext (k : Core) (w : Bool) (row rank : Nat) : (k.usePort w row rank).ext = k.ext := rfl
@[simp] theorem Core.usePort_extWait (k : Core) (w : Bool) (row rank : Nat) :
    (k.usePort w row rank).extWait = k.extWait := rfl
@[simp] theorem Core.usePort_stn (k : Core) (w : Bool) (row rank : Nat) : (k.usePort w row rank).stn = k.stn := rfl
@[simp] theorem Core.usePort_pnl (k : Core) (w : Bool) (row rank : Nat) : (k.usePort w row rank).pnl = k.pnl := rfl
@[simp] theorem Core.usePort_qs (k : Core) (w : Bool) (row rank : Nat) : (k.usePort w row rank).qs = k.qs := rfl
@[simp] theorem Core.usePort_rts (k : Core) (w : Bool) (row rank : Nat) : (k.usePort w row rank).rts = k.rts := rfl
@[simp] theorem Core.usePort_mbs (k : Core) (w : Bool) (row rank : Nat) : (k.usePort w row rank).mbs = k.mbs := rfl
@[simp] theorem Core.usePort_sync (k : Core) (w : Bool) (row rank : Nat) : (k.usePort w row rank).sync = k.sync := rfl
@[simp] theorem Core.usePort_mbOut (k : Core) (w : Bool) (row rank : Nat) :
    (k.usePort w row rank).mbOut = k.mbOut := rfl
@[simp] theorem Core.usePort_sand (k : Core) (w : Bool) (row rank : Nat) : (k.usePort w row rank).sand = k.sand := rfl
@[simp] theorem Core.usePort_halted (k : Core) (w : Bool) (row rank : Nat) :
    (k.usePort w row rank).halted = k.halted := rfl
@[simp] theorem Core.usePort_sandLast (k : Core) (w : Bool) (row rank : Nat) :
    (k.usePort w row rank).sandLast = k.sandLast := rfl

@[simp] theorem Core.setLc_regs (k : Core) (n : Nat) (v : Word) : (k.setLc n v).regs = k.regs := rfl
@[simp] theorem Core.setLc_bm (k : Core) (n : Nat) (v : Word) : (k.setLc n v).bm = k.bm := rfl
@[simp] theorem Core.setLc_sc (k : Core) (n : Nat) (v : Word) :
    (k.setLc n v).sc = { k.sc with lc := aput k.sc.lc n v } := rfl
@[simp] theorem Core.setLc_is (k : Core) (n : Nat) (v : Word) : (k.setLc n v).is = k.is := rfl
@[simp] theorem Core.setLc_mx (k : Core) (n : Nat) (v : Word) : (k.setLc n v).mx = k.mx := rfl
@[simp] theorem Core.setLc_ve (k : Core) (n : Nat) (v : Word) : (k.setLc n v).ve = k.ve := rfl
@[simp] theorem Core.setLc_sp (k : Core) (n : Nat) (v : Word) : (k.setLc n v).sp = k.sp := rfl
@[simp] theorem Core.setLc_lm (k : Core) (n : Nat) (v : Word) : (k.setLc n v).lm = k.lm := rfl
@[simp] theorem Core.setLc_lmFree (k : Core) (n : Nat) (v : Word) : (k.setLc n v).lmFree = k.lmFree := rfl
@[simp] theorem Core.setLc_readers (k : Core) (n : Nat) (v : Word) : (k.setLc n v).readers = k.readers := rfl
@[simp] theorem Core.setLc_inflight (k : Core) (n : Nat) (v : Word) : (k.setLc n v).inflight = k.inflight := rfl
@[simp] theorem Core.setLc_se (k : Core) (n : Nat) (v : Word) : (k.setLc n v).se = k.se := rfl
@[simp] theorem Core.setLc_lines (k : Core) (n : Nat) (v : Word) : (k.setLc n v).lines = k.lines := rfl
@[simp] theorem Core.setLc_ext (k : Core) (n : Nat) (v : Word) : (k.setLc n v).ext = k.ext := rfl
@[simp] theorem Core.setLc_extWait (k : Core) (n : Nat) (v : Word) : (k.setLc n v).extWait = k.extWait := rfl
@[simp] theorem Core.setLc_stn (k : Core) (n : Nat) (v : Word) : (k.setLc n v).stn = k.stn := rfl
@[simp] theorem Core.setLc_pnl (k : Core) (n : Nat) (v : Word) : (k.setLc n v).pnl = k.pnl := rfl
@[simp] theorem Core.setLc_qs (k : Core) (n : Nat) (v : Word) : (k.setLc n v).qs = k.qs := rfl
@[simp] theorem Core.setLc_rts (k : Core) (n : Nat) (v : Word) : (k.setLc n v).rts = k.rts := rfl
@[simp] theorem Core.setLc_mbs (k : Core) (n : Nat) (v : Word) : (k.setLc n v).mbs = k.mbs := rfl
@[simp] theorem Core.setLc_sync (k : Core) (n : Nat) (v : Word) : (k.setLc n v).sync = k.sync := rfl
@[simp] theorem Core.setLc_mbOut (k : Core) (n : Nat) (v : Word) : (k.setLc n v).mbOut = k.mbOut := rfl
@[simp] theorem Core.setLc_sand (k : Core) (n : Nat) (v : Word) : (k.setLc n v).sand = k.sand := rfl
@[simp] theorem Core.setLc_halted (k : Core) (n : Nat) (v : Word) : (k.setLc n v).halted = k.halted := rfl
@[simp] theorem Core.setLc_sandLast (k : Core) (n : Nat) (v : Word) : (k.setLc n v).sandLast = k.sandLast := rfl

@[simp] theorem Core.stop_regs (k : Core) : (k.stop).regs = k.regs := rfl
@[simp] theorem Core.stop_bm (k : Core) : (k.stop).bm = k.bm := rfl
@[simp] theorem Core.stop_sc (k : Core) : (k.stop).sc = k.sc := rfl
@[simp] theorem Core.stop_is (k : Core) : (k.stop).is = { k.is with stopped := true, holds := [] } := rfl
@[simp] theorem Core.stop_mx (k : Core) : (k.stop).mx = k.mx := rfl
@[simp] theorem Core.stop_ve (k : Core) : (k.stop).ve = k.ve := rfl
@[simp] theorem Core.stop_sp (k : Core) : (k.stop).sp = k.sp := rfl
@[simp] theorem Core.stop_lm (k : Core) : (k.stop).lm = k.lm := rfl
@[simp] theorem Core.stop_lmFree (k : Core) : (k.stop).lmFree = k.lmFree := rfl
@[simp] theorem Core.stop_readers (k : Core) : (k.stop).readers = k.readers := rfl
@[simp] theorem Core.stop_inflight (k : Core) : (k.stop).inflight = k.inflight := rfl
@[simp] theorem Core.stop_se (k : Core) : (k.stop).se = k.se := rfl
@[simp] theorem Core.stop_lines (k : Core) : (k.stop).lines = k.lines := rfl
@[simp] theorem Core.stop_ext (k : Core) : (k.stop).ext = k.ext := rfl
@[simp] theorem Core.stop_extWait (k : Core) : (k.stop).extWait = k.extWait := rfl
@[simp] theorem Core.stop_stn (k : Core) : (k.stop).stn = k.stn := rfl
@[simp] theorem Core.stop_pnl (k : Core) : (k.stop).pnl = k.pnl := rfl
@[simp] theorem Core.stop_qs (k : Core) : (k.stop).qs = k.qs := rfl
@[simp] theorem Core.stop_rts (k : Core) : (k.stop).rts = k.rts := rfl
@[simp] theorem Core.stop_mbs (k : Core) : (k.stop).mbs = k.mbs := rfl
@[simp] theorem Core.stop_sync (k : Core) : (k.stop).sync = k.sync := rfl
@[simp] theorem Core.stop_mbOut (k : Core) : (k.stop).mbOut = k.mbOut := rfl
@[simp] theorem Core.stop_sand (k : Core) : (k.stop).sand = k.sand := rfl
@[simp] theorem Core.stop_halted (k : Core) : (k.stop).halted = k.halted := rfl
@[simp] theorem Core.stop_sandLast (k : Core) : (k.stop).sandLast = k.sandLast := rfl

@[simp] theorem Core.setEngine_regs (k : Core) (n : Nat) (e : Engine) : (k.setEngine n e).regs = k.regs := rfl
@[simp] theorem Core.setEngine_bm (k : Core) (n : Nat) (e : Engine) : (k.setEngine n e).bm = k.bm := rfl
@[simp] theorem Core.setEngine_sc (k : Core) (n : Nat) (e : Engine) : (k.setEngine n e).sc = k.sc := rfl
@[simp] theorem Core.setEngine_is (k : Core) (n : Nat) (e : Engine) : (k.setEngine n e).is = k.is := rfl
@[simp] theorem Core.setEngine_mx (k : Core) (n : Nat) (e : Engine) : (k.setEngine n e).mx = k.mx := rfl
@[simp] theorem Core.setEngine_ve (k : Core) (n : Nat) (e : Engine) : (k.setEngine n e).ve = k.ve := rfl
@[simp] theorem Core.setEngine_sp (k : Core) (n : Nat) (e : Engine) : (k.setEngine n e).sp = k.sp := rfl
@[simp] theorem Core.setEngine_lm (k : Core) (n : Nat) (e : Engine) : (k.setEngine n e).lm = k.lm := rfl
@[simp] theorem Core.setEngine_lmFree (k : Core) (n : Nat) (e : Engine) : (k.setEngine n e).lmFree = k.lmFree := rfl
@[simp] theorem Core.setEngine_readers (k : Core) (n : Nat) (e : Engine) :
    (k.setEngine n e).readers = k.readers := rfl
@[simp] theorem Core.setEngine_inflight (k : Core) (n : Nat) (e : Engine) :
    (k.setEngine n e).inflight = k.inflight := rfl
@[simp] theorem Core.setEngine_se (k : Core) (n : Nat) (e : Engine) : (k.setEngine n e).se = aput k.se n e := rfl
@[simp] theorem Core.setEngine_lines (k : Core) (n : Nat) (e : Engine) : (k.setEngine n e).lines = k.lines := rfl
@[simp] theorem Core.setEngine_ext (k : Core) (n : Nat) (e : Engine) : (k.setEngine n e).ext = k.ext := rfl
@[simp] theorem Core.setEngine_extWait (k : Core) (n : Nat) (e : Engine) :
    (k.setEngine n e).extWait = k.extWait := rfl
@[simp] theorem Core.setEngine_stn (k : Core) (n : Nat) (e : Engine) : (k.setEngine n e).stn = k.stn := rfl
@[simp] theorem Core.setEngine_pnl (k : Core) (n : Nat) (e : Engine) : (k.setEngine n e).pnl = k.pnl := rfl
@[simp] theorem Core.setEngine_qs (k : Core) (n : Nat) (e : Engine) : (k.setEngine n e).qs = k.qs := rfl
@[simp] theorem Core.setEngine_rts (k : Core) (n : Nat) (e : Engine) : (k.setEngine n e).rts = k.rts := rfl
@[simp] theorem Core.setEngine_mbs (k : Core) (n : Nat) (e : Engine) : (k.setEngine n e).mbs = k.mbs := rfl
@[simp] theorem Core.setEngine_sync (k : Core) (n : Nat) (e : Engine) : (k.setEngine n e).sync = k.sync := rfl
@[simp] theorem Core.setEngine_mbOut (k : Core) (n : Nat) (e : Engine) : (k.setEngine n e).mbOut = k.mbOut := rfl
@[simp] theorem Core.setEngine_sand (k : Core) (n : Nat) (e : Engine) : (k.setEngine n e).sand = k.sand := rfl
@[simp] theorem Core.setEngine_halted (k : Core) (n : Nat) (e : Engine) : (k.setEngine n e).halted = k.halted := rfl
@[simp] theorem Core.setEngine_sandLast (k : Core) (n : Nat) (e : Engine) :
    (k.setEngine n e).sandLast = k.sandLast := rfl

@[simp] theorem Core.setRoute_regs (k : Core) (r : Nat) (x : Route) : (k.setRoute r x).regs = k.regs := rfl
@[simp] theorem Core.setRoute_bm (k : Core) (r : Nat) (x : Route) : (k.setRoute r x).bm = k.bm := rfl
@[simp] theorem Core.setRoute_sc (k : Core) (r : Nat) (x : Route) : (k.setRoute r x).sc = k.sc := rfl
@[simp] theorem Core.setRoute_is (k : Core) (r : Nat) (x : Route) : (k.setRoute r x).is = k.is := rfl
@[simp] theorem Core.setRoute_mx (k : Core) (r : Nat) (x : Route) : (k.setRoute r x).mx = k.mx := rfl
@[simp] theorem Core.setRoute_ve (k : Core) (r : Nat) (x : Route) : (k.setRoute r x).ve = k.ve := rfl
@[simp] theorem Core.setRoute_sp (k : Core) (r : Nat) (x : Route) : (k.setRoute r x).sp = k.sp := rfl
@[simp] theorem Core.setRoute_lm (k : Core) (r : Nat) (x : Route) : (k.setRoute r x).lm = k.lm := rfl
@[simp] theorem Core.setRoute_lmFree (k : Core) (r : Nat) (x : Route) : (k.setRoute r x).lmFree = k.lmFree := rfl
@[simp] theorem Core.setRoute_readers (k : Core) (r : Nat) (x : Route) : (k.setRoute r x).readers = k.readers := rfl
@[simp] theorem Core.setRoute_inflight (k : Core) (r : Nat) (x : Route) :
    (k.setRoute r x).inflight = k.inflight := rfl
@[simp] theorem Core.setRoute_se (k : Core) (r : Nat) (x : Route) : (k.setRoute r x).se = k.se := rfl
@[simp] theorem Core.setRoute_lines (k : Core) (r : Nat) (x : Route) : (k.setRoute r x).lines = k.lines := rfl
@[simp] theorem Core.setRoute_ext (k : Core) (r : Nat) (x : Route) : (k.setRoute r x).ext = k.ext := rfl
@[simp] theorem Core.setRoute_extWait (k : Core) (r : Nat) (x : Route) : (k.setRoute r x).extWait = k.extWait := rfl
@[simp] theorem Core.setRoute_stn (k : Core) (r : Nat) (x : Route) : (k.setRoute r x).stn = k.stn := rfl
@[simp] theorem Core.setRoute_pnl (k : Core) (r : Nat) (x : Route) : (k.setRoute r x).pnl = k.pnl := rfl
@[simp] theorem Core.setRoute_qs (k : Core) (r : Nat) (x : Route) : (k.setRoute r x).qs = k.qs := rfl
@[simp] theorem Core.setRoute_rts (k : Core) (r : Nat) (x : Route) : (k.setRoute r x).rts = aput k.rts r x := rfl
@[simp] theorem Core.setRoute_mbs (k : Core) (r : Nat) (x : Route) : (k.setRoute r x).mbs = k.mbs := rfl
@[simp] theorem Core.setRoute_sync (k : Core) (r : Nat) (x : Route) : (k.setRoute r x).sync = k.sync := rfl
@[simp] theorem Core.setRoute_mbOut (k : Core) (r : Nat) (x : Route) : (k.setRoute r x).mbOut = k.mbOut := rfl
@[simp] theorem Core.setRoute_sand (k : Core) (r : Nat) (x : Route) : (k.setRoute r x).sand = k.sand := rfl
@[simp] theorem Core.setRoute_halted (k : Core) (r : Nat) (x : Route) : (k.setRoute r x).halted = k.halted := rfl
@[simp] theorem Core.setRoute_sandLast (k : Core) (r : Nat) (x : Route) :
    (k.setRoute r x).sandLast = k.sandLast := rfl

@[simp] theorem Core.setQueue_regs (k : Core) (q : Nat) (x : InQ) : (k.setQueue q x).regs = k.regs := rfl
@[simp] theorem Core.setQueue_bm (k : Core) (q : Nat) (x : InQ) : (k.setQueue q x).bm = k.bm := rfl
@[simp] theorem Core.setQueue_sc (k : Core) (q : Nat) (x : InQ) : (k.setQueue q x).sc = k.sc := rfl
@[simp] theorem Core.setQueue_is (k : Core) (q : Nat) (x : InQ) : (k.setQueue q x).is = k.is := rfl
@[simp] theorem Core.setQueue_mx (k : Core) (q : Nat) (x : InQ) : (k.setQueue q x).mx = k.mx := rfl
@[simp] theorem Core.setQueue_ve (k : Core) (q : Nat) (x : InQ) : (k.setQueue q x).ve = k.ve := rfl
@[simp] theorem Core.setQueue_sp (k : Core) (q : Nat) (x : InQ) : (k.setQueue q x).sp = k.sp := rfl
@[simp] theorem Core.setQueue_lm (k : Core) (q : Nat) (x : InQ) : (k.setQueue q x).lm = k.lm := rfl
@[simp] theorem Core.setQueue_lmFree (k : Core) (q : Nat) (x : InQ) : (k.setQueue q x).lmFree = k.lmFree := rfl
@[simp] theorem Core.setQueue_readers (k : Core) (q : Nat) (x : InQ) : (k.setQueue q x).readers = k.readers := rfl
@[simp] theorem Core.setQueue_inflight (k : Core) (q : Nat) (x : InQ) : (k.setQueue q x).inflight = k.inflight := rfl
@[simp] theorem Core.setQueue_se (k : Core) (q : Nat) (x : InQ) : (k.setQueue q x).se = k.se := rfl
@[simp] theorem Core.setQueue_lines (k : Core) (q : Nat) (x : InQ) : (k.setQueue q x).lines = k.lines := rfl
@[simp] theorem Core.setQueue_ext (k : Core) (q : Nat) (x : InQ) : (k.setQueue q x).ext = k.ext := rfl
@[simp] theorem Core.setQueue_extWait (k : Core) (q : Nat) (x : InQ) : (k.setQueue q x).extWait = k.extWait := rfl
@[simp] theorem Core.setQueue_stn (k : Core) (q : Nat) (x : InQ) : (k.setQueue q x).stn = k.stn := rfl
@[simp] theorem Core.setQueue_pnl (k : Core) (q : Nat) (x : InQ) : (k.setQueue q x).pnl = k.pnl := rfl
@[simp] theorem Core.setQueue_qs (k : Core) (q : Nat) (x : InQ) : (k.setQueue q x).qs = aput k.qs q x := rfl
@[simp] theorem Core.setQueue_rts (k : Core) (q : Nat) (x : InQ) : (k.setQueue q x).rts = k.rts := rfl
@[simp] theorem Core.setQueue_mbs (k : Core) (q : Nat) (x : InQ) : (k.setQueue q x).mbs = k.mbs := rfl
@[simp] theorem Core.setQueue_sync (k : Core) (q : Nat) (x : InQ) : (k.setQueue q x).sync = k.sync := rfl
@[simp] theorem Core.setQueue_mbOut (k : Core) (q : Nat) (x : InQ) : (k.setQueue q x).mbOut = k.mbOut := rfl
@[simp] theorem Core.setQueue_sand (k : Core) (q : Nat) (x : InQ) : (k.setQueue q x).sand = k.sand := rfl
@[simp] theorem Core.setQueue_halted (k : Core) (q : Nat) (x : InQ) : (k.setQueue q x).halted = k.halted := rfl
@[simp] theorem Core.setQueue_sandLast (k : Core) (q : Nat) (x : InQ) : (k.setQueue q x).sandLast = k.sandLast := rfl

@[simp] theorem Core.setMbx_regs (k : Core) (m : Nat) (x : Mbx) : (k.setMbx m x).regs = k.regs := rfl
@[simp] theorem Core.setMbx_bm (k : Core) (m : Nat) (x : Mbx) : (k.setMbx m x).bm = k.bm := rfl
@[simp] theorem Core.setMbx_sc (k : Core) (m : Nat) (x : Mbx) : (k.setMbx m x).sc = k.sc := rfl
@[simp] theorem Core.setMbx_is (k : Core) (m : Nat) (x : Mbx) : (k.setMbx m x).is = k.is := rfl
@[simp] theorem Core.setMbx_mx (k : Core) (m : Nat) (x : Mbx) : (k.setMbx m x).mx = k.mx := rfl
@[simp] theorem Core.setMbx_ve (k : Core) (m : Nat) (x : Mbx) : (k.setMbx m x).ve = k.ve := rfl
@[simp] theorem Core.setMbx_sp (k : Core) (m : Nat) (x : Mbx) : (k.setMbx m x).sp = k.sp := rfl
@[simp] theorem Core.setMbx_lm (k : Core) (m : Nat) (x : Mbx) : (k.setMbx m x).lm = k.lm := rfl
@[simp] theorem Core.setMbx_lmFree (k : Core) (m : Nat) (x : Mbx) : (k.setMbx m x).lmFree = k.lmFree := rfl
@[simp] theorem Core.setMbx_readers (k : Core) (m : Nat) (x : Mbx) : (k.setMbx m x).readers = k.readers := rfl
@[simp] theorem Core.setMbx_inflight (k : Core) (m : Nat) (x : Mbx) : (k.setMbx m x).inflight = k.inflight := rfl
@[simp] theorem Core.setMbx_se (k : Core) (m : Nat) (x : Mbx) : (k.setMbx m x).se = k.se := rfl
@[simp] theorem Core.setMbx_lines (k : Core) (m : Nat) (x : Mbx) : (k.setMbx m x).lines = k.lines := rfl
@[simp] theorem Core.setMbx_ext (k : Core) (m : Nat) (x : Mbx) : (k.setMbx m x).ext = k.ext := rfl
@[simp] theorem Core.setMbx_extWait (k : Core) (m : Nat) (x : Mbx) : (k.setMbx m x).extWait = k.extWait := rfl
@[simp] theorem Core.setMbx_stn (k : Core) (m : Nat) (x : Mbx) : (k.setMbx m x).stn = k.stn := rfl
@[simp] theorem Core.setMbx_pnl (k : Core) (m : Nat) (x : Mbx) : (k.setMbx m x).pnl = k.pnl := rfl
@[simp] theorem Core.setMbx_qs (k : Core) (m : Nat) (x : Mbx) : (k.setMbx m x).qs = k.qs := rfl
@[simp] theorem Core.setMbx_rts (k : Core) (m : Nat) (x : Mbx) : (k.setMbx m x).rts = k.rts := rfl
@[simp] theorem Core.setMbx_mbs (k : Core) (m : Nat) (x : Mbx) : (k.setMbx m x).mbs = aput k.mbs m x := rfl
@[simp] theorem Core.setMbx_sync (k : Core) (m : Nat) (x : Mbx) : (k.setMbx m x).sync = k.sync := rfl
@[simp] theorem Core.setMbx_mbOut (k : Core) (m : Nat) (x : Mbx) : (k.setMbx m x).mbOut = k.mbOut := rfl
@[simp] theorem Core.setMbx_sand (k : Core) (m : Nat) (x : Mbx) : (k.setMbx m x).sand = k.sand := rfl
@[simp] theorem Core.setMbx_halted (k : Core) (m : Nat) (x : Mbx) : (k.setMbx m x).halted = k.halted := rfl
@[simp] theorem Core.setMbx_sandLast (k : Core) (m : Nat) (x : Mbx) : (k.setMbx m x).sandLast = k.sandLast := rfl

@[simp] theorem Core.setBank_regs (k : Core) (a n : Nat) (b : Bank) : (k.setBank a n b).regs = k.regs := rfl
@[simp] theorem Core.setBank_bm (k : Core) (a n : Nat) (b : Bank) : (k.setBank a n b).bm = k.bm := rfl
@[simp] theorem Core.setBank_sc (k : Core) (a n : Nat) (b : Bank) : (k.setBank a n b).sc = k.sc := rfl
@[simp] theorem Core.setBank_is (k : Core) (a n : Nat) (b : Bank) : (k.setBank a n b).is = k.is := rfl
@[simp] theorem Core.setBank_mx (k : Core) (a n : Nat) (b : Bank) :
    (k.setBank a n b).mx = { k.mx with banks := aput k.mx.banks (2 * a + n) b } := rfl
@[simp] theorem Core.setBank_ve (k : Core) (a n : Nat) (b : Bank) : (k.setBank a n b).ve = k.ve := rfl
@[simp] theorem Core.setBank_sp (k : Core) (a n : Nat) (b : Bank) : (k.setBank a n b).sp = k.sp := rfl
@[simp] theorem Core.setBank_lm (k : Core) (a n : Nat) (b : Bank) : (k.setBank a n b).lm = k.lm := rfl
@[simp] theorem Core.setBank_lmFree (k : Core) (a n : Nat) (b : Bank) : (k.setBank a n b).lmFree = k.lmFree := rfl
@[simp] theorem Core.setBank_readers (k : Core) (a n : Nat) (b : Bank) : (k.setBank a n b).readers = k.readers := rfl
@[simp] theorem Core.setBank_inflight (k : Core) (a n : Nat) (b : Bank) :
    (k.setBank a n b).inflight = k.inflight := rfl
@[simp] theorem Core.setBank_se (k : Core) (a n : Nat) (b : Bank) : (k.setBank a n b).se = k.se := rfl
@[simp] theorem Core.setBank_lines (k : Core) (a n : Nat) (b : Bank) : (k.setBank a n b).lines = k.lines := rfl
@[simp] theorem Core.setBank_ext (k : Core) (a n : Nat) (b : Bank) : (k.setBank a n b).ext = k.ext := rfl
@[simp] theorem Core.setBank_extWait (k : Core) (a n : Nat) (b : Bank) : (k.setBank a n b).extWait = k.extWait := rfl
@[simp] theorem Core.setBank_stn (k : Core) (a n : Nat) (b : Bank) : (k.setBank a n b).stn = k.stn := rfl
@[simp] theorem Core.setBank_pnl (k : Core) (a n : Nat) (b : Bank) : (k.setBank a n b).pnl = k.pnl := rfl
@[simp] theorem Core.setBank_qs (k : Core) (a n : Nat) (b : Bank) : (k.setBank a n b).qs = k.qs := rfl
@[simp] theorem Core.setBank_rts (k : Core) (a n : Nat) (b : Bank) : (k.setBank a n b).rts = k.rts := rfl
@[simp] theorem Core.setBank_mbs (k : Core) (a n : Nat) (b : Bank) : (k.setBank a n b).mbs = k.mbs := rfl
@[simp] theorem Core.setBank_sync (k : Core) (a n : Nat) (b : Bank) : (k.setBank a n b).sync = k.sync := rfl
@[simp] theorem Core.setBank_mbOut (k : Core) (a n : Nat) (b : Bank) : (k.setBank a n b).mbOut = k.mbOut := rfl
@[simp] theorem Core.setBank_sand (k : Core) (a n : Nat) (b : Bank) : (k.setBank a n b).sand = k.sand := rfl
@[simp] theorem Core.setBank_halted (k : Core) (a n : Nat) (b : Bank) : (k.setBank a n b).halted = k.halted := rfl
@[simp] theorem Core.setBank_sandLast (k : Core) (a n : Nat) (b : Bank) :
    (k.setBank a n b).sandLast = k.sandLast := rfl

@[simp] theorem Core.setLatch_regs (k : Core) (a : Nat) (l : Latch) : (k.setLatch a l).regs = k.regs := rfl
@[simp] theorem Core.setLatch_bm (k : Core) (a : Nat) (l : Latch) : (k.setLatch a l).bm = k.bm := rfl
@[simp] theorem Core.setLatch_sc (k : Core) (a : Nat) (l : Latch) : (k.setLatch a l).sc = k.sc := rfl
@[simp] theorem Core.setLatch_is (k : Core) (a : Nat) (l : Latch) : (k.setLatch a l).is = k.is := rfl
@[simp] theorem Core.setLatch_mx (k : Core) (a : Nat) (l : Latch) :
    (k.setLatch a l).mx = { k.mx with latch := aput k.mx.latch a l } := rfl
@[simp] theorem Core.setLatch_ve (k : Core) (a : Nat) (l : Latch) : (k.setLatch a l).ve = k.ve := rfl
@[simp] theorem Core.setLatch_sp (k : Core) (a : Nat) (l : Latch) : (k.setLatch a l).sp = k.sp := rfl
@[simp] theorem Core.setLatch_lm (k : Core) (a : Nat) (l : Latch) : (k.setLatch a l).lm = k.lm := rfl
@[simp] theorem Core.setLatch_lmFree (k : Core) (a : Nat) (l : Latch) : (k.setLatch a l).lmFree = k.lmFree := rfl
@[simp] theorem Core.setLatch_readers (k : Core) (a : Nat) (l : Latch) : (k.setLatch a l).readers = k.readers := rfl
@[simp] theorem Core.setLatch_inflight (k : Core) (a : Nat) (l : Latch) :
    (k.setLatch a l).inflight = k.inflight := rfl
@[simp] theorem Core.setLatch_se (k : Core) (a : Nat) (l : Latch) : (k.setLatch a l).se = k.se := rfl
@[simp] theorem Core.setLatch_lines (k : Core) (a : Nat) (l : Latch) : (k.setLatch a l).lines = k.lines := rfl
@[simp] theorem Core.setLatch_ext (k : Core) (a : Nat) (l : Latch) : (k.setLatch a l).ext = k.ext := rfl
@[simp] theorem Core.setLatch_extWait (k : Core) (a : Nat) (l : Latch) : (k.setLatch a l).extWait = k.extWait := rfl
@[simp] theorem Core.setLatch_stn (k : Core) (a : Nat) (l : Latch) : (k.setLatch a l).stn = k.stn := rfl
@[simp] theorem Core.setLatch_pnl (k : Core) (a : Nat) (l : Latch) : (k.setLatch a l).pnl = k.pnl := rfl
@[simp] theorem Core.setLatch_qs (k : Core) (a : Nat) (l : Latch) : (k.setLatch a l).qs = k.qs := rfl
@[simp] theorem Core.setLatch_rts (k : Core) (a : Nat) (l : Latch) : (k.setLatch a l).rts = k.rts := rfl
@[simp] theorem Core.setLatch_mbs (k : Core) (a : Nat) (l : Latch) : (k.setLatch a l).mbs = k.mbs := rfl
@[simp] theorem Core.setLatch_sync (k : Core) (a : Nat) (l : Latch) : (k.setLatch a l).sync = k.sync := rfl
@[simp] theorem Core.setLatch_mbOut (k : Core) (a : Nat) (l : Latch) : (k.setLatch a l).mbOut = k.mbOut := rfl
@[simp] theorem Core.setLatch_sand (k : Core) (a : Nat) (l : Latch) : (k.setLatch a l).sand = k.sand := rfl
@[simp] theorem Core.setLatch_halted (k : Core) (a : Nat) (l : Latch) : (k.setLatch a l).halted = k.halted := rfl
@[simp] theorem Core.setLatch_sandLast (k : Core) (a : Nat) (l : Latch) :
    (k.setLatch a l).sandLast = k.sandLast := rfl

@[simp] theorem Core.setStn_regs (k : Core) (x : Stencil) : (k.setStn x).regs = k.regs := rfl
@[simp] theorem Core.setStn_bm (k : Core) (x : Stencil) : (k.setStn x).bm = k.bm := rfl
@[simp] theorem Core.setStn_sc (k : Core) (x : Stencil) : (k.setStn x).sc = k.sc := rfl
@[simp] theorem Core.setStn_is (k : Core) (x : Stencil) : (k.setStn x).is = k.is := rfl
@[simp] theorem Core.setStn_mx (k : Core) (x : Stencil) : (k.setStn x).mx = k.mx := rfl
@[simp] theorem Core.setStn_ve (k : Core) (x : Stencil) : (k.setStn x).ve = k.ve := rfl
@[simp] theorem Core.setStn_sp (k : Core) (x : Stencil) : (k.setStn x).sp = k.sp := rfl
@[simp] theorem Core.setStn_lm (k : Core) (x : Stencil) : (k.setStn x).lm = k.lm := rfl
@[simp] theorem Core.setStn_lmFree (k : Core) (x : Stencil) : (k.setStn x).lmFree = k.lmFree := rfl
@[simp] theorem Core.setStn_readers (k : Core) (x : Stencil) : (k.setStn x).readers = k.readers := rfl
@[simp] theorem Core.setStn_inflight (k : Core) (x : Stencil) : (k.setStn x).inflight = k.inflight := rfl
@[simp] theorem Core.setStn_se (k : Core) (x : Stencil) : (k.setStn x).se = k.se := rfl
@[simp] theorem Core.setStn_lines (k : Core) (x : Stencil) : (k.setStn x).lines = k.lines := rfl
@[simp] theorem Core.setStn_ext (k : Core) (x : Stencil) : (k.setStn x).ext = k.ext := rfl
@[simp] theorem Core.setStn_extWait (k : Core) (x : Stencil) : (k.setStn x).extWait = k.extWait := rfl
@[simp] theorem Core.setStn_stn (k : Core) (x : Stencil) : (k.setStn x).stn = x := rfl
@[simp] theorem Core.setStn_pnl (k : Core) (x : Stencil) : (k.setStn x).pnl = k.pnl := rfl
@[simp] theorem Core.setStn_qs (k : Core) (x : Stencil) : (k.setStn x).qs = k.qs := rfl
@[simp] theorem Core.setStn_rts (k : Core) (x : Stencil) : (k.setStn x).rts = k.rts := rfl
@[simp] theorem Core.setStn_mbs (k : Core) (x : Stencil) : (k.setStn x).mbs = k.mbs := rfl
@[simp] theorem Core.setStn_sync (k : Core) (x : Stencil) : (k.setStn x).sync = k.sync := rfl
@[simp] theorem Core.setStn_mbOut (k : Core) (x : Stencil) : (k.setStn x).mbOut = k.mbOut := rfl
@[simp] theorem Core.setStn_sand (k : Core) (x : Stencil) : (k.setStn x).sand = k.sand := rfl
@[simp] theorem Core.setStn_halted (k : Core) (x : Stencil) : (k.setStn x).halted = k.halted := rfl
@[simp] theorem Core.setStn_sandLast (k : Core) (x : Stencil) : (k.setStn x).sandLast = k.sandLast := rfl

@[simp] theorem Core.startReader_regs (k : Core) (kind eng row n : Nat) (go : Bool) :
    (k.startReader kind eng row n go).regs = k.regs := rfl
@[simp] theorem Core.startReader_bm (k : Core) (kind eng row n : Nat) (go : Bool) :
    (k.startReader kind eng row n go).bm = k.bm := rfl
@[simp] theorem Core.startReader_sc (k : Core) (kind eng row n : Nat) (go : Bool) :
    (k.startReader kind eng row n go).sc = k.sc := rfl
@[simp] theorem Core.startReader_is (k : Core) (kind eng row n : Nat) (go : Bool) :
    (k.startReader kind eng row n go).is = k.is := rfl
@[simp] theorem Core.startReader_mx (k : Core) (kind eng row n : Nat) (go : Bool) :
    (k.startReader kind eng row n go).mx = k.mx := rfl
@[simp] theorem Core.startReader_ve (k : Core) (kind eng row n : Nat) (go : Bool) :
    (k.startReader kind eng row n go).ve = k.ve := rfl
@[simp] theorem Core.startReader_sp (k : Core) (kind eng row n : Nat) (go : Bool) :
    (k.startReader kind eng row n go).sp = k.sp := rfl
@[simp] theorem Core.startReader_lm (k : Core) (kind eng row n : Nat) (go : Bool) :
    (k.startReader kind eng row n go).lm = k.lm := rfl
@[simp] theorem Core.startReader_lmFree (k : Core) (kind eng row n : Nat) (go : Bool) :
    (k.startReader kind eng row n go).lmFree = k.lmFree := rfl
@[simp] theorem Core.startReader_readers (k : Core) (kind eng row n : Nat) (go : Bool) :
    (k.startReader kind eng row n go).readers = k.readers ++ [⟨kind, eng, row, n, go, [], 0, none⟩] := rfl
@[simp] theorem Core.startReader_inflight (k : Core) (kind eng row n : Nat) (go : Bool) :
    (k.startReader kind eng row n go).inflight = k.inflight := rfl
@[simp] theorem Core.startReader_se (k : Core) (kind eng row n : Nat) (go : Bool) :
    (k.startReader kind eng row n go).se = k.se := rfl
@[simp] theorem Core.startReader_lines (k : Core) (kind eng row n : Nat) (go : Bool) :
    (k.startReader kind eng row n go).lines = k.lines := rfl
@[simp] theorem Core.startReader_ext (k : Core) (kind eng row n : Nat) (go : Bool) :
    (k.startReader kind eng row n go).ext = k.ext := rfl
@[simp] theorem Core.startReader_extWait (k : Core) (kind eng row n : Nat) (go : Bool) :
    (k.startReader kind eng row n go).extWait = k.extWait := rfl
@[simp] theorem Core.startReader_stn (k : Core) (kind eng row n : Nat) (go : Bool) :
    (k.startReader kind eng row n go).stn = k.stn := rfl
@[simp] theorem Core.startReader_pnl (k : Core) (kind eng row n : Nat) (go : Bool) :
    (k.startReader kind eng row n go).pnl = k.pnl := rfl
@[simp] theorem Core.startReader_qs (k : Core) (kind eng row n : Nat) (go : Bool) :
    (k.startReader kind eng row n go).qs = k.qs := rfl
@[simp] theorem Core.startReader_rts (k : Core) (kind eng row n : Nat) (go : Bool) :
    (k.startReader kind eng row n go).rts = k.rts := rfl
@[simp] theorem Core.startReader_mbs (k : Core) (kind eng row n : Nat) (go : Bool) :
    (k.startReader kind eng row n go).mbs = k.mbs := rfl
@[simp] theorem Core.startReader_sync (k : Core) (kind eng row n : Nat) (go : Bool) :
    (k.startReader kind eng row n go).sync = k.sync := rfl
@[simp] theorem Core.startReader_mbOut (k : Core) (kind eng row n : Nat) (go : Bool) :
    (k.startReader kind eng row n go).mbOut = k.mbOut := rfl
@[simp] theorem Core.startReader_sand (k : Core) (kind eng row n : Nat) (go : Bool) :
    (k.startReader kind eng row n go).sand = k.sand := rfl
@[simp] theorem Core.startReader_halted (k : Core) (kind eng row n : Nat) (go : Bool) :
    (k.startReader kind eng row n go).halted = k.halted := rfl
@[simp] theorem Core.startReader_sandLast (k : Core) (kind eng row n : Nat) (go : Bool) :
    (k.startReader kind eng row n go).sandLast = k.sandLast := rfl

@[simp] theorem Core.setS_regs (k : Core) (r : Nat) (v : Word) : (k.setS r v).regs = k.regs := by
  unfold Core.setS; split <;> rfl
@[simp] theorem Core.setS_bm (k : Core) (r : Nat) (v : Word) : (k.setS r v).bm = k.bm := by
  unfold Core.setS; split <;> rfl
@[simp] theorem Core.setS_is (k : Core) (r : Nat) (v : Word) : (k.setS r v).is = k.is := by
  unfold Core.setS; split <;> rfl
@[simp] theorem Core.setS_mx (k : Core) (r : Nat) (v : Word) : (k.setS r v).mx = k.mx := by
  unfold Core.setS; split <;> rfl
@[simp] theorem Core.setS_ve (k : Core) (r : Nat) (v : Word) : (k.setS r v).ve = k.ve := by
  unfold Core.setS; split <;> rfl
@[simp] theorem Core.setS_sp (k : Core) (r : Nat) (v : Word) : (k.setS r v).sp = k.sp := by
  unfold Core.setS; split <;> rfl
@[simp] theorem Core.setS_lm (k : Core) (r : Nat) (v : Word) : (k.setS r v).lm = k.lm := by
  unfold Core.setS; split <;> rfl
@[simp] theorem Core.setS_lmFree (k : Core) (r : Nat) (v : Word) : (k.setS r v).lmFree = k.lmFree := by
  unfold Core.setS; split <;> rfl
@[simp] theorem Core.setS_readers (k : Core) (r : Nat) (v : Word) : (k.setS r v).readers = k.readers := by
  unfold Core.setS; split <;> rfl
@[simp] theorem Core.setS_inflight (k : Core) (r : Nat) (v : Word) : (k.setS r v).inflight = k.inflight := by
  unfold Core.setS; split <;> rfl
@[simp] theorem Core.setS_se (k : Core) (r : Nat) (v : Word) : (k.setS r v).se = k.se := by
  unfold Core.setS; split <;> rfl
@[simp] theorem Core.setS_lines (k : Core) (r : Nat) (v : Word) : (k.setS r v).lines = k.lines := by
  unfold Core.setS; split <;> rfl
@[simp] theorem Core.setS_ext (k : Core) (r : Nat) (v : Word) : (k.setS r v).ext = k.ext := by
  unfold Core.setS; split <;> rfl
@[simp] theorem Core.setS_extWait (k : Core) (r : Nat) (v : Word) : (k.setS r v).extWait = k.extWait := by
  unfold Core.setS; split <;> rfl
@[simp] theorem Core.setS_stn (k : Core) (r : Nat) (v : Word) : (k.setS r v).stn = k.stn := by
  unfold Core.setS; split <;> rfl
@[simp] theorem Core.setS_pnl (k : Core) (r : Nat) (v : Word) : (k.setS r v).pnl = k.pnl := by
  unfold Core.setS; split <;> rfl
@[simp] theorem Core.setS_qs (k : Core) (r : Nat) (v : Word) : (k.setS r v).qs = k.qs := by
  unfold Core.setS; split <;> rfl
@[simp] theorem Core.setS_rts (k : Core) (r : Nat) (v : Word) : (k.setS r v).rts = k.rts := by
  unfold Core.setS; split <;> rfl
@[simp] theorem Core.setS_mbs (k : Core) (r : Nat) (v : Word) : (k.setS r v).mbs = k.mbs := by
  unfold Core.setS; split <;> rfl
@[simp] theorem Core.setS_sync (k : Core) (r : Nat) (v : Word) : (k.setS r v).sync = k.sync := by
  unfold Core.setS; split <;> rfl
@[simp] theorem Core.setS_mbOut (k : Core) (r : Nat) (v : Word) : (k.setS r v).mbOut = k.mbOut := by
  unfold Core.setS; split <;> rfl
@[simp] theorem Core.setS_sand (k : Core) (r : Nat) (v : Word) : (k.setS r v).sand = k.sand := by
  unfold Core.setS; split <;> rfl
@[simp] theorem Core.setS_halted (k : Core) (r : Nat) (v : Word) : (k.setS r v).halted = k.halted := by
  unfold Core.setS; split <;> rfl
@[simp] theorem Core.setS_sandLast (k : Core) (r : Nat) (v : Word) : (k.setS r v).sandLast = k.sandLast := by
  unfold Core.setS; split <;> rfl

/-! ### Reads of units after updates -/

@[simp] theorem State.core_setCore_self (s : State) (c : Nat) (k : Core) : (s.setCore c k).core c = k := by
  simp [State.core]

theorem State.core_setCore_ne (s : State) {c d : Nat} (k : Core) (h : d ≠ c) : (s.setCore c k).core d = s.core d := by
  simp [State.core, aget_aput_ne _ _ _ h]

@[simp] theorem State.core_modCore_self (s : State) (c : Nat) (f : Core → Core) :
    (s.modCore c f).core c = f (s.core c) :=
  s.core_setCore_self c _

theorem State.core_modCore_ne (s : State) {c d : Nat} (f : Core → Core) (h : d ≠ c) :
    (s.modCore c f).core d = s.core d :=
  s.core_setCore_ne _ h

@[simp] theorem State.core_mapCores (s : State) (f : Core → Core) (c : Nat) : (s.mapCores f).core c = f (s.core c) := by
  simp [State.core, aget_map f s.dflt s.cores c]

@[simp] theorem State.core_setBay (s : State) (b : Nat) (y : Bay) (d : Nat) : (s.setBay b y).core d = s.core d := rfl
@[simp] theorem State.core_setDreg (s : State) (off v : Nat) (d : Nat) : (s.setDreg off v).core d = s.core d := rfl
@[simp] theorem State.core_bumpD (s : State) (off : Nat) (d : Nat) : (s.bumpD off).core d = s.core d := rfl
@[simp] theorem State.core_emit (s : State) (code : Nat) (core cls : Option Nat) (payload : List Nat) (d : Nat) :
    (s.emit code core cls payload).core d = s.core d := rfl
@[simp] theorem State.core_send (s : State) (o : Out) (d : Nat) : (s.send o).core d = s.core d := rfl
@[simp] theorem State.core_setPort (s : State) (p : Nat) (x : Port) (d : Nat) :
    (s.setPort p x).core d = s.core d := rfl
@[simp] theorem State.core_setRegion (s : State) (r : Nat) (x : Region) (d : Nat) :
    (s.setRegion r x).core d = s.core d := rfl
@[simp] theorem State.core_setSem (s : State) (off : Nat) (v : Word) (d : Nat) :
    (s.setSem off v).core d = s.core d := rfl
@[simp] theorem State.core_toHome (s : State) (place : Nat) (m : SemMsg) (d : Nat) :
    (s.toHome place m).core d = s.core d := rfl
@[simp] theorem State.core_onLath (s : State) (m : LathMsg) (d : Nat) : (s.onLath m).core d = s.core d := rfl

@[simp] theorem State.bay_setBay_self (s : State) (b : Nat) (y : Bay) : (s.setBay b y).bay b = y := by
  simp [State.bay]

theorem State.bay_setBay_ne (s : State) {b d : Nat} (y : Bay) (h : d ≠ b) : (s.setBay b y).bay d = s.bay d := by
  simp [State.bay, aget_aput_ne _ _ _ h]

@[simp] theorem State.port_setPort_self (s : State) (p : Nat) (x : Port) : (s.setPort p x).port p = x := by
  simp [State.port]

theorem State.port_setPort_ne (s : State) {p q : Nat} (x : Port) (h : q ≠ p) : (s.setPort p x).port q = s.port q := by
  simp [State.port, aget_aput_ne _ _ _ h]

@[simp] theorem State.dreg_setDreg_self (s : State) (off v : Nat) : (s.setDreg off v).dreg off = v % 2 ^ 32 := by
  simp [State.dreg]

theorem State.dreg_setDreg_ne (s : State) {off o : Nat} (v : Nat) (h : o ≠ off) :
    (s.setDreg off v).dreg o = s.dreg o := by
  simp [State.dreg, aget_aput_ne _ _ _ h]

/-- A counter stops at its largest value (R10). -/
@[simp] theorem State.dreg_bumpD_self (s : State) (off : Nat) : (s.bumpD off).dreg off = satAdd 32 (s.dreg off) 1 := by
  simp [State.dreg, aget_abump_self]

theorem State.dreg_bumpD_ne (s : State) {off o : Nat} (h : o ≠ off) : (s.bumpD off).dreg o = s.dreg o := by
  simp [State.dreg, aget_abump_ne _ _ h]

@[simp] theorem State.semVal_setSem_self (s : State) (off : Nat) (v : Word) : (s.setSem off v).semVal off = v := by
  simp [State.semVal]

theorem State.semVal_setSem_ne (s : State) {off o : Nat} (v : Word) (h : o ≠ off) :
    (s.setSem off v).semVal o = s.semVal o := by
  simp [State.semVal, aget_aput_ne _ _ _ h]

@[simp] theorem Core.reg_setReg_self (k : Core) (off v : Nat) : (k.setReg off v).reg off = v % 2 ^ 32 := by
  simp [Core.reg]

theorem Core.reg_setReg_ne (k : Core) {off o : Nat} (v : Nat) (h : o ≠ off) : (k.setReg off v).reg o = k.reg o := by
  simp [Core.reg, aget_aput_ne _ _ _ h]

@[simp] theorem Core.reg_bump_self (k : Core) (off : Nat) : (k.bump off).reg off = satAdd 32 (k.reg off) 1 := by
  simp [Core.reg, aget_abump_self]

theorem Core.reg_bump_ne (k : Core) {off o : Nat} (h : o ≠ off) : (k.bump off).reg o = k.reg o := by
  simp [Core.reg, aget_abump_ne _ _ h]

/-! ### S registers (R54) -/

/-- S0 reads 0. -/
@[simp] theorem Core.s_zero (k : Core) : k.s 0 = 0#32 := rfl

/-- A write to S register r; one to S0 is discarded. -/
theorem Core.s_setS (k : Core) (r : Nat) (v : Word) (n : Nat) :
    (k.setS r v).s n = if n = r ∧ r ≠ 0 then v else k.s n := by
  by_cases hr : r = 0
  · subst hr
    simp [Core.setS]
  · by_cases hn : n = r
    · subst hn
      simp [Core.setS, Core.s, hr]
    · simp [Core.setS, Core.s, hr, hn, aget_aput_ne _ _ _ hn]

@[simp] theorem Core.setS_lc (k : Core) (r : Nat) (v : Word) : (k.setS r v).sc.lc = k.sc.lc := by
  unfold Core.setS; split <;> rfl

theorem Core.lc_setLc (k : Core) (n m : Nat) (v : Word) : (k.setLc n v).lc m = if m = n then v else k.lc m := by
  simp [Core.lc, aget_aput]

@[simp] theorem Core.s_setLc (k : Core) (n : Nat) (v : Word) (r : Nat) : (k.setLc n v).s r = k.s r := rfl

end Sys2Proof.Machine
end

