-- ==== Sys2Proof/Laws/Frame.lean ====
section
/-!
SUPPORT. What starting an operation leaves as it was: an effect on a V register, a mask register, a scratchpad row or
a weight column comes only when its latency has passed (R60), so issue adds to the effects under way and changes none
of these.
-/

namespace Sys2Proof.Machine

/-- What a core holds in its units: vector engine, scratchpad, arrays and weight stage, bundle memory, clock; effects
under way are not lost. -/
structure CoreStill (k l : Core) : Prop where
  ve : l.ve = k.ve
  sp : l.sp = k.sp
  mx : l.mx = k.mx
  bm : l.bm = k.bm
  clk : l.is.clk = k.is.clk
  grow : ∀ d ∈ k.inflight, d ∈ l.inflight

/-- Where issue stands: next bundle, delay and target, the cycle from which it may issue, CORE_PC. -/
def Issue.point (x : Issue) : Nat × Bool × Nat × Nat × Nat × Bool × Bool :=
  (x.next, x.delay, x.target, x.eligible, x.pcIndex, x.pcSrc, x.pcDelay)

/-- The same, and the scalar unit and the issue point as well. -/
structure CoreSame (k l : Core) : Prop extends CoreStill k l where
  sc : l.sc = k.sc
  point : l.is.point = k.is.point

theorem CoreSame.refl (k : Core) : CoreSame k k :=
  ⟨⟨rfl, rfl, rfl, rfl, rfl, fun _ h => h⟩, rfl, rfl⟩

theorem CoreStill.trans {k l m : Core} (h : CoreStill k l) (g : CoreStill l m) : CoreStill k m :=
  ⟨g.ve.trans h.ve, g.sp.trans h.sp, g.mx.trans h.mx, g.bm.trans h.bm, g.clk.trans h.clk, fun d hd => g.grow d (h.grow d hd)⟩

theorem CoreSame.trans {k l m : Core} (h : CoreSame k l) (g : CoreSame l m) : CoreSame k m :=
  ⟨h.toCoreStill.trans g.toCoreStill, g.sc.trans h.sc, g.point.trans h.point⟩

/-- The device around the cores: queue, memories, semaphores, keys, patch tables, clocks, time, state, coordinate. -/
structure Around (s t : State) : Prop where
  pending : t.pending = s.pending
  mem : t.mem = s.mem
  sem : t.sem = s.sem
  sec : t.sec = s.sec
  pat : t.pat = s.pat
  regions : t.regions = s.regions
  xng : t.xng = s.xng
  scr : t.scr = s.scr
  st : t.ctl.st = s.ctl.st
  coord : t.fab.coord = s.fab.coord
  cyc : ∀ b, (t.bay b).cyc = (s.bay b).cyc

theorem Around.refl (s : State) : Around s s := ⟨rfl, rfl, rfl, rfl, rfl, rfl, rfl, rfl, rfl, rfl, fun _ => rfl⟩

theorem Around.trans {s t u : State} (h : Around s t) (g : Around t u) : Around s u :=
  ⟨g.pending.trans h.pending, g.mem.trans h.mem, g.sem.trans h.sem, g.sec.trans h.sec, g.pat.trans h.pat,
    g.regions.trans h.regions, g.xng.trans h.xng, g.scr.trans h.scr, g.st.trans h.st, g.coord.trans h.coord,
    fun b => (g.cyc b).trans (h.cyc b)⟩

/-- Starting operations keeps every core and the device around them. -/
structure Same (s t : State) : Prop extends Around s t where
  core : ∀ d, CoreSame (s.core d) (t.core d)

theorem Same.refl (s : State) : Same s s := ⟨Around.refl s, fun _ => CoreSame.refl _⟩

theorem Same.trans {s t u : State} (h : Same s t) (g : Same t u) : Same s u :=
  ⟨h.toAround.trans g.toAround, fun d => (h.core d).trans (g.core d)⟩

/-! ### Updates of a core -/

theorem CoreSame.setReg {k l : Core} (off v : Nat) (h : CoreSame k l) : CoreSame k (l.setReg off v) :=
  h.trans ⟨⟨rfl, rfl, rfl, rfl, rfl, fun _ h => h⟩, rfl, rfl⟩

theorem CoreSame.bump {k l : Core} (off : Nat) (h : CoreSame k l) : CoreSame k (l.bump off) :=
  h.trans ⟨⟨rfl, rfl, rfl, rfl, rfl, fun _ h => h⟩, rfl, rfl⟩

theorem CoreSame.bumpBy {k l : Core} (off n : Nat) (h : CoreSame k l) : CoreSame k (l.bumpBy off n) :=
  h.trans ⟨⟨rfl, rfl, rfl, rfl, rfl, fun _ h => h⟩, rfl, rfl⟩

theorem CoreSame.stop {k l : Core} (h : CoreSame k l) : CoreSame k l.stop :=
  h.trans ⟨⟨rfl, rfl, rfl, rfl, rfl, fun _ h => h⟩, rfl, rfl⟩

theorem CoreSame.later {k l : Core} (e : Effect) (p : Bool) (now a b : Nat) (h : CoreSame k l) :
    CoreSame k (l.later e p now a b) :=
  h.trans ⟨⟨rfl, rfl, rfl, rfl, rfl, fun _ h => List.mem_append_left _ h⟩, rfl, rfl⟩

theorem CoreSame.toS {k l : Core} (r : Nat) (v : Word) (a b : Nat) (h : CoreSame k l) : CoreSame k (l.toS r v a b) :=
  h.trans ⟨⟨rfl, rfl, rfl, rfl, rfl, fun _ h => List.mem_append_left _ h⟩, rfl, rfl⟩

theorem CoreSame.setRoute {k l : Core} (r : Nat) (x : Route) (h : CoreSame k l) : CoreSame k (l.setRoute r x) :=
  h.trans ⟨⟨rfl, rfl, rfl, rfl, rfl, fun _ h => h⟩, rfl, rfl⟩

theorem CoreSame.setQueue {k l : Core} (r : Nat) (x : InQ) (h : CoreSame k l) : CoreSame k (l.setQueue r x) :=
  h.trans ⟨⟨rfl, rfl, rfl, rfl, rfl, fun _ h => h⟩, rfl, rfl⟩

theorem CoreSame.setMbx {k l : Core} (r : Nat) (x : Mbx) (h : CoreSame k l) : CoreSame k (l.setMbx r x) :=
  h.trans ⟨⟨rfl, rfl, rfl, rfl, rfl, fun _ h => h⟩, rfl, rfl⟩

theorem CoreSame.setEngine {k l : Core} (r : Nat) (x : Engine) (h : CoreSame k l) : CoreSame k (l.setEngine r x) :=
  h.trans ⟨⟨rfl, rfl, rfl, rfl, rfl, fun _ h => h⟩, rfl, rfl⟩

theorem CoreSame.setWait {k l : Core} (p : Nat) (w : Option Wait) (h : CoreSame k l) : CoreSame k (l.setWait p w) := by
  refine h.trans ?_
  unfold Core.setWait
  split
  any_goals exact ⟨⟨rfl, rfl, rfl, rfl, rfl, fun _ h => h⟩, rfl, rfl⟩
  split
  · exact (CoreSame.refl l).setEngine _ _
  · exact CoreSame.refl l

theorem CoreSame.startReader {k l : Core} (a b c d : Nat) (g : Bool) (h : CoreSame k l) :
    CoreSame k (l.startReader a b c d g) :=
  h.trans ⟨⟨rfl, rfl, rfl, rfl, rfl, fun _ h => h⟩, rfl, rfl⟩

theorem CoreSame.stgo {k l : Core} (n : Nat) (h : CoreSame k l) : CoreSame k (l.stgo n) :=
  h.trans ⟨⟨rfl, rfl, rfl, rfl, rfl, fun _ h => h⟩, rfl, rfl⟩

theorem CoreSame.putFault {k l : Core} (a b c d e : Nat) (h : CoreSame k l) : CoreSame k (l.putFault a b c d e) :=
  ((h.setReg _ _).setReg _ _).setReg _ _

theorem CoreSame.logFault {k l : Core} (a b c d e : Nat) (h : CoreSame k l) : CoreSame k (l.logFault a b c d e) := by
  unfold Core.logFault
  extract_lets info
  split
  · exact (h.putFault b c d e 256).trans ⟨⟨rfl, rfl, rfl, rfl, rfl, fun _ h => h⟩, rfl, rfl⟩
  · split
    · exact h.putFault _ _ _ _ _
    · exact h.setReg _ _

/-! ### Updates of the device -/

theorem Same.setCore {s t : State} (c : Nat) {k : Core} (h : Same s t) (hk : CoreSame (t.core c) k) :
    Same s (t.setCore c k) := by
  refine h.trans ⟨⟨rfl, rfl, rfl, rfl, rfl, rfl, rfl, rfl, rfl, rfl, fun _ => rfl⟩, fun d => ?_⟩
  by_cases hd : d = c
  · subst hd; simpa using hk
  · rw [State.core_setCore_ne _ _ hd]; exact CoreSame.refl _

theorem Same.modCore {s t : State} (c : Nat) {f : Core → Core} (h : Same s t)
    (hf : CoreSame (t.core c) (f (t.core c))) : Same s (t.modCore c f) :=
  h.setCore c hf

theorem Same.emit {s t : State} (code : Nat) (core cls : Option Nat) (p : List Nat) (h : Same s t) :
    Same s (t.emit code core cls p) :=
  h.trans ⟨⟨rfl, rfl, rfl, rfl, rfl, rfl, rfl, rfl, rfl, rfl, fun _ => rfl⟩, fun _ => CoreSame.refl _⟩

theorem Same.send {s t : State} (o : Out) (h : Same s t) : Same s (t.send o) :=
  h.trans ⟨⟨rfl, rfl, rfl, rfl, rfl, rfl, rfl, rfl, rfl, rfl, fun _ => rfl⟩, fun _ => CoreSame.refl _⟩

theorem Same.setDreg {s t : State} (off v : Nat) (h : Same s t) : Same s (t.setDreg off v) :=
  h.trans ⟨⟨rfl, rfl, rfl, rfl, rfl, rfl, rfl, rfl, rfl, rfl, fun _ => rfl⟩, fun _ => CoreSame.refl _⟩

theorem Same.bumpD {s t : State} (off : Nat) (h : Same s t) : Same s (t.bumpD off) :=
  h.trans ⟨⟨rfl, rfl, rfl, rfl, rfl, rfl, rfl, rfl, rfl, rfl, fun _ => rfl⟩, fun _ => CoreSame.refl _⟩

theorem Same.onLath {s t : State} (m : LathMsg) (h : Same s t) : Same s (t.onLath m) :=
  h.trans ⟨⟨rfl, rfl, rfl, rfl, rfl, rfl, rfl, rfl, rfl, rfl, fun _ => rfl⟩, fun _ => CoreSame.refl _⟩

theorem Same.toHome {s t : State} (p : Nat) (m : SemMsg) (h : Same s t) : Same s (t.toHome p m) :=
  h.trans ⟨⟨rfl, rfl, rfl, rfl, rfl, rfl, rfl, rfl, rfl, rfl, fun _ => rfl⟩, fun _ => CoreSame.refl _⟩

/-- Any update of the fields that Same does not speak of. -/
theorem Same.over {s t u : State} (h : Same s t) (hc : u.cores = t.cores) (hd : u.dflt = t.dflt) (ha : Around t u) :
    Same s u := by
  refine h.trans ⟨ha, fun d => ?_⟩
  have : u.core d = t.core d := by simp [State.core, hc, hd]
  rw [this]; exact CoreSame.refl _

theorem Same.foldl {α : Type} {s : State} (f : State → α → State) (l : List α)
    (hf : ∀ t x, Same s t → Same s (f t x)) {t : State} (h : Same s t) : Same s (l.foldl f t) := by
  induction l generalizing t with
  | nil => exact h
  | cons x l ih => exact ih (hf t x h)

theorem Same.setPort {s t : State} (p : Nat) (x : Port) (h : Same s t) : Same s (t.setPort p x) :=
  h.over rfl rfl ⟨rfl, rfl, rfl, rfl, rfl, rfl, rfl, rfl, rfl, rfl, fun _ => rfl⟩

theorem Same.leave {s t : State} (p n : Nat) (o : Out) (h : Same s t) : Same s (t.leave p n o) := by
  unfold State.leave State.addD64 State.setDreg64
  exact (Same.setDreg _ _ (Same.setDreg _ _ (h.setPort _ _))).send _

theorem Same.portOut {s t : State} (p i n : Nat) (o : Out) (h : Same s t) : Same s (t.portOut p i n o) := by
  unfold State.portOut
  extract_lets x
  split
  · exact h.setPort _ _
  · exact h.leave _ _ _

theorem Same.sendOn {s t : State} (p src op dst tag a : Nat) (d : List Byte) (b : Bool) (x : List Nat) (h : Same s t) :
    Same s (t.sendOn p src op dst tag a d b x) := h.portOut _ _ _ _

theorem Same.floodFault {s t : State} (ps : List Nat) (a b c d : Nat) (h : Same s t) :
    Same s (t.floodFault ps a b c d) :=
  Same.foldl _ _ (fun _ _ h => h.sendOn _ _ _ _ _ _ _ _ _) h

theorem Same.broadcastFault {s t : State} (n r : Nat) (h : Same s t) : Same s (t.broadcastFault n r) := by
  unfold State.broadcastFault
  split
  · exact h
  · exact (h.floodFault _ _ _ _ _).bumpD _

theorem Same.firstFault {s t : State} (r c a : Nat) (h : Same s t) : Same s (t.firstFault r c a) := by
  unfold State.firstFault
  refine Same.emit _ _ _ _ (Same.broadcastFault _ _ ?_)
  exact h.over rfl rfl ⟨rfl, rfl, rfl, rfl, rfl, rfl, rfl, rfl, rfl, rfl, fun _ => rfl⟩

theorem Same.otherFault {s t : State} (f : FaultInfo) (r c a : Nat) (h : Same s t) : Same s (t.otherFault f r c a) :=
  h.over rfl rfl ⟨rfl, rfl, rfl, rfl, rfl, rfl, rfl, rfl, rfl, rfl, fun _ => rfl⟩

/-- The job fault (R372). -/
theorem Same.raiseFault {s t : State} (r c a : Nat) (h : Same s t) : Same s (t.raiseFault r c a) := by
  unfold State.raiseFault
  split
  · exact h
  · split
    · exact h.firstFault _ _ _
    · split
      · exact h.otherFault _ _ _ _
      · exact h

/-- Taking a violation (R67, R68). -/
theorem Same.violate {s t : State} (c a b d e : Nat) (h : Same s t) : Same s (t.violate c a b d e) := by
  unfold State.violate
  exact Same.raiseFault _ _ _ (Same.emit _ _ _ _ (h.setCore c ((CoreSame.logFault _ _ _ _ _ ((CoreSame.refl _).bump _)).stop)))

theorem Same.violateUncounted {s t : State} (c a b d e : Nat) (h : Same s t) : Same s (t.violateUncounted c a b d e) := by
  unfold State.violateUncounted
  exact Same.raiseFault _ _ _ (Same.emit _ _ _ _ (h.setCore c ((CoreSame.logFault _ _ _ _ _ (CoreSame.refl _)).stop)))

/-- A poison fault (R371). -/
theorem Same.poisonFault {s t : State} (c a b d : Nat) (h : Same s t) : Same s (t.poisonFault c a b d) := by
  unfold State.poisonFault
  exact Same.raiseFault _ _ _ (Same.emit _ _ _ _ (h.setCore c ((CoreSame.logFault _ _ _ _ _ (CoreSame.refl _)).stop)))

/-! ### Reads -/

theorem Same.countErrs {s t : State} (c r a b : Nat) (h : Same s t) : Same s (t.countErrs c r a b) := by
  unfold State.countErrs
  simp only []
  have step : ∀ {u : State} (n m e x y : Nat), Same s u →
      Same s ((u.modCore c fun k => (k.bumpBy n m).setReg e x).emit y (some c) (some m) ([1] ++ lohi r)) :=
    fun n m e x y hu => Same.emit _ _ _ _ (hu.modCore c (((CoreSame.refl _).bumpBy _ _).setReg _ _))
  split <;> split
  · exact h
  · exact Same.emit _ _ _ _ (h.modCore c (((CoreSame.refl _).bumpBy _ _).setReg _ _))
  · exact Same.emit _ _ _ _ (h.modCore c (((CoreSame.refl _).bumpBy _ _).setReg _ _))
  · exact Same.emit _ _ _ _ (Same.modCore c (Same.emit _ _ _ _ (h.modCore c
      (((CoreSame.refl _).bumpBy _ _).setReg _ _))) (((CoreSame.refl _).bumpBy _ _).setReg _ _))

theorem Same.readRow {s t : State} (c r : Nat) (h : Same s t) : Same s (t.readRow c r).1 := by
  unfold State.readRow
  extract_lets k ce ue u
  show Same s (if _ then _ else _)
  split
  · exact h
  · exact Same.countErrs _ _ _ _ (h.setCore c ⟨⟨rfl, rfl, rfl, rfl, rfl, fun _ h => h⟩, rfl, rfl⟩)

theorem Same.readCol {s t : State} (c n : Nat) (h : Same s t) : Same s (t.readCol c n).1 := by
  unfold State.readCol
  simp only []
  split <;> split
  · exact h
  · exact Same.emit _ _ _ _ (h.modCore c ((CoreSame.refl _).bumpBy _ _))
  · exact Same.emit _ _ _ _ (h.modCore c ((CoreSame.refl _).bumpBy _ _))
  · exact Same.emit _ _ _ _ (Same.modCore c (Same.emit _ _ _ _ (h.modCore c ((CoreSame.refl _).bumpBy _ _)))
      ((CoreSame.refl _).bumpBy _ _))

theorem Same.readCols {s t : State} (c : Nat) (l : List Nat) (h : Same s t) : Same s (t.readCols c l).1 := by
  induction l generalizing t with
  | nil => exact h
  | cons n l ih => exact ih (h.readCol c n)

/-! ### The local-memory slot -/

theorem Same.runLms {s t : State} (c : Nat) (k0 : Core) (b : Bool) (x : LmsSlot) (h : Same s t) :
    Same s (t.runLms c k0 b x) := by
  unfold State.runLms
  split
  · exact h
  · exact h.modCore c ⟨⟨rfl, rfl, rfl, rfl, rfl, fun _ h => h⟩, rfl, rfl⟩

/-! ### What the matrix and vector slots keep -/

/-- What no operation changes in its issue cycle (R60): V and mask registers, the scratchpad, weight columns. -/
structure CoreKept (k l : Core) : Prop where
  v : l.ve.v = k.ve.v
  m : l.ve.m = k.ve.m
  vPoison : l.ve.vPoison = k.ve.vPoison
  mPoison : l.ve.mPoison = k.ve.mPoison
  sp : l.sp = k.sp
  ws : l.mx.ws = k.mx.ws
  wsPoison : l.mx.wsPoison = k.mx.wsPoison
  bm : l.bm = k.bm
  clk : l.is.clk = k.is.clk
  grow : ∀ d ∈ k.inflight, d ∈ l.inflight
  sc : l.sc = k.sc
  point : l.is.point = k.is.point

theorem CoreSame.kept {k l : Core} (h : CoreSame k l) : CoreKept k l :=
  ⟨by rw [h.ve], by rw [h.ve], by rw [h.ve], by rw [h.ve], h.sp, by rw [h.mx], by rw [h.mx], h.bm, h.clk, h.grow, h.sc,
    h.point⟩

theorem CoreKept.refl (k : Core) : CoreKept k k := (CoreSame.refl k).kept

theorem CoreKept.trans {k l m : Core} (h : CoreKept k l) (g : CoreKept l m) : CoreKept k m :=
  ⟨g.v.trans h.v, g.m.trans h.m, g.vPoison.trans h.vPoison, g.mPoison.trans h.mPoison, g.sp.trans h.sp,
    g.ws.trans h.ws, g.wsPoison.trans h.wsPoison, g.bm.trans h.bm, g.clk.trans h.clk,
    fun d hd => g.grow d (h.grow d hd), g.sc.trans h.sc, g.point.trans h.point⟩

theorem CoreKept.bump {k l : Core} (off : Nat) (h : CoreKept k l) : CoreKept k (l.bump off) :=
  h.trans ((CoreSame.refl l).bump off).kept

theorem CoreKept.later {k l : Core} (e : Effect) (p : Bool) (now a b : Nat) (h : CoreKept k l) :
    CoreKept k (l.later e p now a b) :=
  h.trans ((CoreSame.refl l).later e p now a b).kept

theorem CoreKept.toS {k l : Core} (r : Nat) (v : Word) (a b : Nat) (h : CoreKept k l) : CoreKept k (l.toS r v a b) :=
  h.trans ((CoreSame.refl l).toS r v a b).kept

/-- Starting operations keeps every core and the device around them. -/
structure Kept (s t : State) : Prop extends Around s t where
  core : ∀ d, CoreKept (s.core d) (t.core d)

theorem Same.kept {s t : State} (h : Same s t) : Kept s t := ⟨h.toAround, fun d => (h.core d).kept⟩

theorem Kept.refl (s : State) : Kept s s := (Same.refl s).kept

theorem Kept.trans {s t u : State} (h : Kept s t) (g : Kept t u) : Kept s u :=
  ⟨h.toAround.trans g.toAround, fun d => (h.core d).trans (g.core d)⟩

theorem Kept.setCore {s t : State} (c : Nat) {k : Core} (h : Kept s t) (hk : CoreKept (t.core c) k) :
    Kept s (t.setCore c k) := by
  refine h.trans ⟨⟨rfl, rfl, rfl, rfl, rfl, rfl, rfl, rfl, rfl, rfl, fun _ => rfl⟩, fun d => ?_⟩
  by_cases hd : d = c
  · subst hd; simpa using hk
  · rw [State.core_setCore_ne _ _ hd]; exact CoreKept.refl _

theorem Kept.modCore {s t : State} (c : Nat) {f : Core → Core} (h : Kept s t)
    (hf : CoreKept (t.core c) (f (t.core c))) : Kept s (t.modCore c f) :=
  h.setCore c hf

theorem Kept.over {s t u : State} (h : Kept s t) (hc : u.cores = t.cores) (hd : u.dflt = t.dflt) (ha : Around t u) :
    Kept s u :=
  h.trans ((Same.refl t).over hc hd ha).kept

theorem Kept.foldl {α : Type} {s : State} (f : State → α → State) (l : List α)
    (hf : ∀ t x, Kept s t → Kept s (f t x)) {t : State} (h : Kept s t) : Kept s (l.foldl f t) := by
  induction l generalizing t with
  | nil => exact h
  | cons x l ih => exact ih (hf t x h)

theorem Kept.poisonFault {s t : State} (c a b d : Nat) (h : Kept s t) : Kept s (t.poisonFault c a b d) :=
  h.trans ((Same.refl t).poisonFault c a b d).kept

theorem Kept.readRow {s t : State} (c r : Nat) (h : Kept s t) : Kept s (t.readRow c r).1 :=
  h.trans ((Same.refl t).readRow c r).kept

theorem Kept.readCol {s t : State} (c r : Nat) (h : Kept s t) : Kept s (t.readCol c r).1 :=
  h.trans ((Same.refl t).readCol c r).kept

theorem Kept.readCols {s t : State} (c : Nat) (l : List Nat) (h : Kept s t) : Kept s (t.readCols c l).1 :=
  h.trans ((Same.refl t).readCols c l).kept

theorem CoreKept.setBank {k l : Core} (a n : Nat) (b : Bank) (h : CoreKept k l) : CoreKept k (l.setBank a n b) :=
  h.trans ⟨rfl, rfl, rfl, rfl, rfl, rfl, rfl, rfl, rfl, fun _ h => h, rfl, rfl⟩

theorem CoreKept.setLatch {k l : Core} (a : Nat) (x : Latch) (h : CoreKept k l) : CoreKept k (l.setLatch a x) :=
  h.trans ⟨rfl, rfl, rfl, rfl, rfl, rfl, rfl, rfl, rfl, fun _ h => h, rfl, rfl⟩

theorem CoreKept.popHead {k l : Core} (b : Bool) (h : CoreKept k l) : CoreKept k (l.popHead b) := by
  refine h.trans ?_
  unfold Core.popHead
  simp only []
  split <;> exact ⟨rfl, rfl, rfl, rfl, rfl, rfl, rfl, rfl, rfl, fun _ h => h, rfl, rfl⟩

theorem CoreKept.withMx {k l : Core} (x : MatUnit) (h : CoreKept k l) (hw : x.ws = l.mx.ws)
    (hp : x.wsPoison = l.mx.wsPoison) : CoreKept k { l with mx := x } :=
  h.trans ⟨rfl, rfl, rfl, rfl, rfl, hw, hp, rfl, rfl, fun _ h => h, rfl, rfl⟩

theorem CoreKept.retire {k l : Core} (a n : Nat) (h : CoreKept k l) : CoreKept k (l.retire a n) := by
  unfold Core.retire
  simp only []
  refine CoreKept.bump _ (CoreKept.withMx _ (CoreKept.setBank _ _ _ ?_) rfl rfl)
  split
  · exact (h.setBank _ _ _).setLatch _ _
  · exact h

/-- Operations of the vector slot other than loads start on the core (R150). -/
theorem CoreKept.vecOp {k l : Core} (k0 : Core) (c step : Nat) (x : VecSlot) (f : VForm) (h : CoreKept k l) :
    CoreKept k (l.vecOp k0 c step x f) := by
  unfold Core.vecOp
  cases f <;> simp only [Core.toV, Core.storeRow, Core.reduce] <;> repeat' split
  all_goals first
    | exact h
    | exact h.later _ _ _ _ _
    | exact (h.later _ _ _ _ _).later _ _ _ _ _
    | exact h.toS _ _ _ _
    | exact (h.toS _ _ _ _).toS _ _ _ _
    | skip
  exact CoreKept.bump _ (CoreKept.later _ _ _ _ _
    (h.trans ⟨rfl, rfl, rfl, rfl, rfl, rfl, rfl, rfl, rfl, fun _ h => h, rfl, rfl⟩))

/-! ### The matrix slot -/

theorem Kept.weightSide {s t : State} (c : Nat) (x : MatSlot) (g : Tag) (h : Kept s t) :
    Kept s (t.weightSide c x g).1 := by
  unfold State.weightSide
  simp only []
  repeat' split
  · exact h.readCol _ _
  · exact Kept.readCol _ _ (h.readCols _ _)
  · exact (h.readCols _ _).over rfl rfl ⟨rfl, rfl, rfl, rfl, rfl, rfl, rfl, rfl, rfl, rfl, fun _ => rfl⟩
  · exact h.readCols _ _

theorem CoreKept.mmaInto {k l : Core} (x : MatSlot) (t : Tag) (y : MmaIn) (a : Nat) (h : CoreKept k l) :
    CoreKept k (l.mmaInto x t y a) := by
  unfold Core.mmaInto
  extract_lets r bad b0 l0 k2
  have h2 : CoreKept k k2 := ((h.setBank _ _ _).setLatch _ _).bump _
  split
  · exact h2.bump _
  · exact h2

theorem Kept.readAct {s t : State} (c : Nat) (x : MatSlot) (a : Nat) (h : Kept s t) : Kept s (t.readAct c x a).1 := by
  unfold State.readAct
  extract_lets r r2
  have h1 : Kept s r.1 := h.readRow _ _
  split
  · show Kept s r2.1
    exact h1.readRow _ _
  · exact h1

theorem Kept.readScales {s t : State} (c : Nat) (x : MatSlot) (a : Nat) (h : Kept s t) :
    Kept s (t.readScales c x a).1 := by
  unfold State.readScales
  split
  · exact h.readRow _ _
  · exact h

theorem Kept.mmaArray {s t : State} (c : Nat) (x : MatSlot) (g : Tag) (w : List FVal) (wp : Bool) (wc : BitVec 512)
    (wcp : Bool) (mask : Word) (a : Nat) (h : Kept s t) : Kept s (t.mmaArray c x g w wp wc wcp mask a) := by
  unfold State.mmaArray
  exact Kept.modCore c ((h.readAct _ _ _).readScales _ _ _) ((CoreKept.refl _).mmaInto _ _ _ _)

theorem Kept.mma {s t : State} (c : Nat) (k0 : Core) (x : MatSlot) (h : Kept s t) : Kept s (t.mma c k0 x) := by
  unfold State.mma
  split
  · exact h
  · split
    · exact h
    · simp only []
      have h2 : ∀ g, Kept s (if x.srd then ((t.weightSide c x g).1.readCol c (x.wsa / 4 - 1))
          else ((t.weightSide c x g).1, 0#512, false)).1 := by
        intro g
        split
        · exact Kept.readCol _ _ (h.weightSide _ _ _)
        · exact h.weightSide _ _ _
      split
      · exact Kept.foldl _ _ (fun u a hu => hu.modCore c ((CoreKept.refl _).retire _ _))
          (Kept.foldl _ _ (fun u a hu => hu.mmaArray _ _ _ _ _ _ _ _ _) (h2 _))
      · exact Kept.foldl _ _ (fun u a hu => hu.mmaArray _ _ _ _ _ _ _ _ _) (h2 _)

theorem Kept.runMat {s t : State} (c : Nat) (k0 : Core) (x : MatSlot) (h : Kept s t) : Kept s (t.runMat c k0 x) := by
  unfold State.runMat
  split
  · exact h.mma _ _ _
  · refine Kept.foldl _ _ (fun u a hu => hu.modCore c ?_) h
    split
    · exact (CoreKept.refl _).retire _ _
    · exact CoreKept.refl _
  · exact Kept.foldl _ _ (fun u a hu => hu.modCore c ((CoreKept.refl _).setBank _ _ _)) h
  · exact Kept.foldl _ _ (fun u a hu => (hu.readRow c _).modCore c (((CoreKept.refl _).later _ _ _ _ _).bump _)) h
  · exact h

/-! ### The vector slot -/

theorem Kept.vecLoad {s t : State} (c : Nat) (k0 : Core) (x : VecSlot) (f : VForm) (h : Kept s t) :
    Kept s (t.vecLoad c k0 x f) := by
  unfold State.vecLoad
  exact (h.readRow c _).modCore c ((CoreKept.refl _).later _ _ _ _ _)

theorem Kept.runVec {s t : State} (c : Nat) (k0 : Core) (i : Nat) (x : VecSlot) (h : Kept s t) :
    Kept s (t.runVec c k0 i x) := by
  unfold State.runVec
  split
  · exact h
  · extract_lets s1 s2
    have h1 : Kept s s1 := h.modCore c ((CoreKept.refl _).bump _)
    have h2 : Kept s s2 := by
      show Kept s (if _ then _ else _)
      split
      · exact h1.vecLoad _ _ _ _
      · split
        · exact h1.poisonFault _ _ _ _
        · exact h1.modCore c ((CoreKept.refl _).vecOp _ _ _ _ _)
    split
    · refine h2.modCore c ?_
      extract_lets k2
      have hk : CoreKept (s2.core c) k2 := (CoreKept.refl _).popHead _
      split
      · exact hk.bump _
      · exact hk
    · exact h2


end Sys2Proof.Machine
end

