-- ==== Sys2Proof/Laws/FrameCtl.lean ====
section
/-!
SUPPORT. What the control slot and the end of a panel leave as it was.
-/

namespace Sys2Proof.Machine

/-! ### Sending -/

theorem Same.fabSend {s t : State} (op dst tag a : Nat) (d : List Byte) (b : Bool) (x : List Nat) (h : Same s t) :
    Same s (t.fabSend op dst tag a d b x).1 := by
  unfold State.fabSend
  split
  · exact h
  · split
    · exact h.bumpD _
    · split
      · exact h.bumpD _
      · exact h.sendOn _ _ _ _ _ _ _ _ _

theorem Same.fabRequest {s t : State} (op core p kind x dst a dl : Nat) (d : List Byte) (b : Bool) (e : List Nat)
    (h : Same s t) : Same s (t.fabRequest op core p kind x dst a dl d b e).1 := by
  unfold State.fabRequest
  split
  · exact h
  · extract_lets tag r
    have h1 : Same s r.1 := h.fabSend _ _ _ _ _ _ _
    split
    · exact h1.over rfl rfl ⟨rfl, rfl, rfl, rfl, rfl, rfl, rfl, rfl, rfl, rfl, fun _ => rfl⟩
    · exact h1

theorem Same.semSend {s t : State} (c p k a : Nat) (m : Int) (dl n : Nat) (h : Same s t) :
    Same s (t.semSend c p k a m dl n).1 := by
  unfold State.semSend
  split
  · split
    · exact h
    · exact h.toHome _ _
  · exact h.fabRequest _ _ _ _ _ _ _ _ _ _ _

theorem Same.beginWait {s t : State} (c p a n : Nat) (b : Bool) (h : Same s t) : Same s (t.beginWait c p a n b).1 := by
  unfold State.beginWait
  extract_lets now dl r
  have h1 : Same s r.1 := h.semSend _ _ _ _ _ _ _
  split
  · refine Same.modCore c h1 (f := fun k => k.setWait p (some ⟨a, n, b, now, dl, 0, 0⟩)) ?_
    exact CoreSame.setWait _ _ (CoreSame.refl _)
  · exact h1

theorem Same.drainSync {s t : State} (c n : Nat) (h : Same s t) : Same s (t.drainSync c n) := by
  induction n generalizing t with
  | zero => exact h
  | succ n ih =>
    unfold State.drainSync
    split
    · exact h
    · split
      · exact h
      · extract_lets s1 r
        have h1 : Same s s1 := h.modCore c ⟨⟨rfl, rfl, rfl, rfl, rfl, fun _ h => h⟩, rfl, rfl⟩
        have h2 : Same s r.1 := h1.semSend _ _ _ _ _ _ _
        apply ih
        split
        · exact h2
        · exact h2.violate _ _ _ _ _

theorem Same.sendRecords {s t : State} (c n : Nat) (h : Same s t) : Same s (t.sendRecords c n) := by
  induction n generalizing t with
  | zero => exact h
  | succ n ih =>
    unfold State.sendRecords
    split
    · exact h
    · split
      · exact h
      · extract_lets cfg mb s1 s2
        have h1 : Same s s1 := h.modCore c ⟨⟨rfl, rfl, rfl, rfl, rfl, fun _ h => h⟩, rfl, rfl⟩
        apply ih
        show Same s (if _ then _ else _)
        split
        · exact h1.onLath _
        · split
          · exact h1.fabRequest _ _ _ _ _ _ _ _ _ _ _
          · exact (h1.fabRequest _ _ _ _ _ _ _ _ _ _ _).violate _ _ _ _ _

/-! ### Queues, mailboxes, semaphores -/

theorem Same.qSend {s t : State} (c : Nat) (k0 : Core) (x : CtlSlot) (h : Same s t) : Same s (t.qSend c k0 x) := by
  unfold State.qSend
  extract_lets cfg n s1
  refine Same.onLath _ (h.modCore c ?_)
  exact CoreSame.bump _ (((CoreSame.refl _).setRoute _ _).trans
    ⟨⟨rfl, rfl, rfl, rfl, rfl, fun _ h => h⟩, rfl, rfl⟩)

theorem CoreSame.foldl {α : Type} {k : Core} (f : Core → α → Core) (l : List α)
    (hf : ∀ t x, CoreSame k t → CoreSame k (f t x)) {t : Core} (h : CoreSame k t) : CoreSame k (l.foldl f t) := by
  induction l generalizing t with
  | nil => exact h
  | cons x l ih => exact ih (hf t x h)

theorem Same.qRecv {s t : State} (c : Nat) (x : CtlSlot) (h : Same s t) : Same s (t.qRecv c x) := by
  unfold State.qRecv
  extract_lets q
  split
  · exact h
  · extract_lets s1
    have h1 : Same s s1 := h.modCore c (CoreSame.foldl _ _ (fun u j hu => hu.later _ _ _ _ _)
      (((CoreSame.refl _).setQueue _ _).bump _))
    split
    · exact h1.onLath _
    · exact h1

theorem Same.mbSend {s t : State} (c : Nat) (k0 : Core) (x : CtlSlot) (h : Same s t) : Same s (t.mbSend c k0 x) := by
  unfold State.mbSend
  extract_lets cfg r n need pad utag sn rows junk padRec seq woff data s1 s2
  apply Same.sendRecords
  have h1 : Same s s1 := h.over rfl rfl ⟨rfl, rfl, rfl, rfl, rfl, rfl, rfl, rfl, rfl, rfl, fun _ => rfl⟩
  refine h1.modCore c ?_
  extract_lets k1 i1 k2 k3
  have e1 : CoreSame (s1.core c) k1 := (CoreSame.refl _).setRoute _ _
  have e2 : CoreSame (s1.core c) k2 := e1.trans ⟨⟨rfl, rfl, rfl, rfl, rfl, fun _ h => h⟩, rfl, rfl⟩
  have e3 : CoreSame (s1.core c) k3 := e2.bump _
  split
  · exact e3
  · exact e3.bump _

theorem Same.mbFree {s t : State} (c : Nat) (k0 : Core) (x : CtlSlot) (h : Same s t) : Same s (t.mbFree c k0 x) := by
  unfold State.mbFree
  extract_lets cfg n
  have h1 : Same s (t.modCore c fun k =>
      let m := k.mbx x.idx
      let ring := 64 * max 1 (mbRows cfg)
      k.setMbx x.idx { m with roff := (m.roff + n) % ring, landed := m.landed - n,
                              heads := m.heads.filter fun h => n ≤ (h + ring - m.roff) % ring }) :=
    h.modCore c ((CoreSame.refl _).setMbx _ _)
  split
  · exact h1.onLath _
  · exact h1.fabSend _ _ _ _ _ _ _

theorem Same.semUpdate {s t : State} (c : Nat) (k0 : Core) (x : CtlSlot) (h : Same s t) :
    Same s (t.semUpdate c k0 x) := by
  unfold State.semUpdate
  extract_lets n d s1
  exact (h.modCore c ⟨⟨rfl, rfl, rfl, rfl, rfl, fun _ h => h⟩, rfl, rfl⟩).drainSync _ _

/-! ### Stream engines -/

theorem Same.withdraw {s t : State} (p : Nat → Nat → Bool) (h : Same s t) : Same s (t.withdraw p) :=
  h.over rfl rfl ⟨rfl, rfl, rfl, rfl, rfl, rfl, rfl, rfl, rfl, rfl, fun _ => rfl⟩

theorem CoreSame.settleSeg {k l : Core} (cyc n : Nat) (h : CoreSame k l) : CoreSame k (l.settleSeg cyc n) := by
  unfold Core.settleSeg
  extract_lets ls
  split
  · exact h
  · exact h.trans ⟨⟨rfl, rfl, rfl, rfl, rfl, fun _ h => List.mem_append_left _ h⟩, rfl, rfl⟩

theorem CoreSame.settleSegs {k l : Core} (cyc : Nat) (h : CoreSame k l) : CoreSame k (l.settleSegs cyc) :=
  CoreSame.foldl _ _ (fun _ _ hu => hu.settleSeg _ _) h

theorem CoreSame.stopEngine {k l : Core} (n cyc : Nat) (h : CoreSame k l) : CoreSame k (l.stopEngine n cyc) := by
  unfold Core.stopEngine
  extract_lets e
  split
  · exact h
  · exact (h.setEngine _ _).settleSegs _

theorem Same.stopEngine {s t : State} (c n : Nat) (h : Same s t) : Same s (t.stopEngine c n) := by
  unfold State.stopEngine
  extract_lets w s1
  have h1 : Same s s1 := h.modCore c ((CoreSame.refl _).stopEngine _ _)
  split
  · exact h1.withdraw _
  · exact h1

theorem Same.stopEngines {s t : State} (c : Nat) (h : Same s t) : Same s (t.stopEngines c) :=
  Same.foldl _ _ (fun _ _ hu => hu.stopEngine _ _) h

theorem Same.seViol {s t : State} (c n r sl a : Nat) (h : Same s t) : Same s (t.seViol c n r sl a) :=
  (h.stopEngine _ _).violate _ _ _ _ _

theorem Same.sgo {s t : State} (c n e : Nat) (p q : Word) (st : Nat) (h : Same s t) : Same s (t.sgo c n e p q st) := by
  unfold State.sgo
  extract_lets k
  split
  · exact h.seViol _ _ _ _ _
  · split
    · exact h.seViol _ _ _ _ _
    · split
      · exact h.seViol _ _ _ _ _
      · exact h.setCore c ((CoreSame.refl _).setEngine _ _)

/-- The control slot of an issuing bundle keeps what the core shows (R47, R60). -/
theorem Same.runCtl {s t : State} (c : Nat) (k0 : Core) (x : CtlSlot) (h : Same s t) : Same s (t.runCtl c k0 x) := by
  unfold State.runCtl
  extract_lets row cyc
  split
  · exact h.sgo _ _ _ _ _ _
  · exact h.modCore c ((CoreSame.refl _).startReader _ _ _ _ _)
  · exact h.stopEngine _ _
  · exact h.qSend _ _ _
  · exact h.qRecv _ _
  · exact h.mbSend _ _ _
  · exact h.mbFree _ _ _
  · refine h.modCore c ?_
    exact CoreSame.setWait _ _ (CoreSame.refl _)
  · refine h.modCore c ?_
    exact CoreSame.setWait _ _ (CoreSame.refl _)
  · exact h.semUpdate _ _ _
  · exact h.semUpdate _ _ _
  · exact h.modCore c ((CoreSame.refl _).startReader _ _ _ _ _)
  · exact h.modCore c ((CoreSame.refl _).stgo _)
  · exact h.modCore c (((CoreSame.refl _).startReader _ _ _ _ _).stgo _)
  · exact h

/-! ### The end of a panel (R30) -/

theorem Same.closeInbound {s t : State} (c : Nat) (h : Same s t) : Same s (t.closeInbound c) := by
  unfold State.closeInbound
  extract_lets s1
  have h1 : Same s s1 := by
    refine Same.foldl _ _ (fun u q hu => ?_) h
    extract_lets x u1
    split
    · exact hu
    · have hu1 : Same s u1 := hu.modCore c ((CoreSame.refl _).setQueue _ _)
      split
      · exact hu1.onLath _
      · exact hu1
  refine Same.foldl _ _ (fun u m hu => ?_) h1
  extract_lets x cfg u1
  split
  · exact hu
  · have hu1 : Same s u1 := hu.modCore c ((CoreSame.refl _).setMbx _ _)
    split
    · exact hu1
    · split
      · exact hu1.onLath _
      · exact hu1.fabSend _ _ _ _ _ _ _

theorem Same.ackStep {s t : State} (c : Nat) (h : Same s t) : Same s (t.ackStep c) := by
  unfold State.ackStep
  extract_lets y
  split
  · exact h
  · refine h.over rfl rfl ⟨rfl, rfl, rfl, rfl, rfl, rfl, rfl, rfl, rfl, rfl, fun b => ?_⟩
    by_cases hb : b = bayOf c
    · subst hb; simp [y]
    · rw [State.bay_setBay_ne _ _ hb]

theorem Same.floatUsed {s t : State} (c : Nat) (h : Same s t) : Same s (t.floatUsed c) := by
  unfold State.floatUsed
  extract_lets k p d
  split
  · split
    · exact h.setCore c ⟨⟨rfl, rfl, rfl, rfl, rfl, fun _ h => h⟩, rfl, rfl⟩
    · exact h
  · exact h

theorem Same.enterPanel {s t : State} (c : Nat) (h : Same s t) : Same s (t.enterPanel c) := by
  unfold State.enterPanel
  have h1 : Same s (t.modCore c fun k => { k with pnl := { k.pnl with phase := 1, wait := none, semAt := 0 } }) :=
    h.modCore c ⟨⟨rfl, rfl, rfl, rfl, rfl, fun _ h => h⟩, rfl, rfl⟩
  simp only []
  split
  · exact h1
  · split
    · exact h1.violateUncounted _ _ _ _ _
    · split
      · exact h1.beginWait _ _ _ _ _
      · exact (h1.beginWait _ _ _ _ _).violate _ _ _ _ _

theorem Same.afterPanel {s t : State} (c : Nat) (a b : Bool) (h : Same s t) : Same s (t.afterPanel c a b) := by
  have h1 : Same s (t.stopEngines c) := h.stopEngines _
  cases a <;> cases b <;> simp only [State.afterPanel, Bool.false_eq_true, if_false, if_true]
  · exact (h.floatUsed _).enterPanel _
  · exact h.closeInbound _
  · exact h1.floatUsed _
  · exact h1.closeInbound _

/-- The end of a panel keeps what the core shows. -/
theorem Same.panelEnd {s t : State} (c : Nat) (h : Same s t) : Same s (t.panelEnd c) := by
  have e (k : Core) (q : Panel) (n : Nat) : CoreSame k { k with pnl := q, is := { k.is with serial := n } } :=
    ⟨⟨rfl, rfl, rfl, rfl, rfl, fun _ h => h⟩, rfl, rfl⟩
  unfold State.panelEnd
  extract_lets k p d w ended p1 p2 i1 k1 slow
  split
  · exact h.violateUncounted _ _ _ _ _
  · refine Same.afterPanel _ _ _ (Same.ackStep c (h.setCore c ?_))
    split
    · exact (e _ _ _).bump _
    · exact e _ _ _

end Sys2Proof.Machine
end

