-- ==== Sys2Proof/Laws/Issue.lean ====
section
/-!
SUPPORT. What the issue of a bundle does: the slots start one after the other on the operands as they stand at issue,
issue moves on, a mark ends the panel.
-/

namespace Sys2Proof.Machine

/-! ### Ports -/

theorem takePorts_core (k : Core) (rs : List (Bool × Nat × Nat)) :
    ∃ ps, k.takePorts rs = { k with is := { k.is with ports := ps } } := ⟨_, rfl⟩

theorem ported_core (s : State) (c : Nat) :
    ∃ ps, (s.ported c).core c = { s.core c with is := { (s.core c).is with ports := ps } } := by
  simpa [State.ported] using takePorts_core _ _

theorem ported_same (s : State) (c : Nat) : Same s (s.ported c) := by
  exact (Same.refl s).setCore c ⟨⟨rfl, rfl, rfl, rfl, rfl, fun _ h => h⟩, rfl, rfl⟩

/-! ### A row of the table runs the bundle at the issue point -/

theorem issue_of_issues {s : State} {c : Nat} {p : Bundle → Bool} (h : s.issues c = true)
    (hp : p (s.core c).atIssue = true) :
    s.issue c p = (s.ported c).runBundle c (s.core c).atIssue (s.core c).bundleIndex false := by
  simp only [State.issues, Bool.and_eq_true, decide_eq_true_eq, Bool.not_eq_true', beq_iff_eq, Option.isNone_iff_eq_none]
    at h
  obtain ⟨⟨⟨⟨⟨⟨_, hr⟩, hm⟩, ha⟩, hh⟩, hv⟩, hq⟩ := h
  simp [State.issue, hr, hm, ha, hp, State.tryBundle, hh, hv, hq, State.ported]

theorem issues_core {s : State} {c : Nat} (h : s.issues c = true) : c < nCores := by
  simp only [State.issues, Bool.and_eq_true, decide_eq_true_eq] at h
  exact h.1.1.1.1.1.1

/-! ### The scalar slot -/

/-- The scalar slot touches the scalar unit of its core, and adds to the effects under way. -/
structure SclKept (c : Nat) (s t : State) : Prop extends Around s t where
  core : ∀ d, CoreStill (s.core d) (t.core d)
  point : ∀ d, (t.core d).is.point = (s.core d).is.point
  other : ∀ d, d ≠ c → (t.core d).sc = (s.core d).sc

theorem Same.scl {s t : State} (c : Nat) (h : Same s t) : SclKept c s t :=
  ⟨h.toAround, fun d => (h.core d).toCoreStill, fun d => (h.core d).point, fun d _ => (h.core d).sc⟩

theorem SclKept.trans {c : Nat} {s t u : State} (h : SclKept c s t) (g : SclKept c t u) : SclKept c s u :=
  ⟨h.toAround.trans g.toAround, fun d => (h.core d).trans (g.core d), fun d => (g.point d).trans (h.point d),
    fun d hd => (g.other d hd).trans (h.other d hd)⟩

theorem SclKept.modSc (s : State) (c : Nat) (f : Core → Core)
    (hf : ∀ k, CoreStill k (f k) ∧ (f k).is.point = k.is.point) : SclKept c s (s.modCore c f) := by
  refine ⟨⟨rfl, rfl, rfl, rfl, rfl, rfl, rfl, rfl, rfl, rfl, fun _ => rfl⟩, fun d => ?_, fun d => ?_, fun d hd => ?_⟩
  · by_cases hd : d = c
    · subst hd; simpa using (hf _).1
    · rw [State.core_modCore_ne _ _ hd]; exact (CoreSame.refl _).toCoreStill
  · by_cases hd : d = c
    · subst hd; simpa using (hf _).2
    · rw [State.core_modCore_ne _ _ hd]
  · rw [State.core_modCore_ne _ _ hd]

theorem setS_still (k : Core) (r : Nat) (v : Word) :
    CoreStill k (k.setS r v) ∧ (k.setS r v).is.point = k.is.point := by
  unfold Core.setS
  split <;> exact ⟨⟨rfl, rfl, rfl, rfl, rfl, fun _ h => h⟩, rfl⟩

theorem setLc_still (k : Core) (n : Nat) (v : Word) :
    CoreStill k (k.setLc n v) ∧ (k.setLc n v).is.point = k.is.point :=
  ⟨⟨rfl, rfl, rfl, rfl, rfl, fun _ h => h⟩, rfl⟩

/-- The scalar slot of an issuing bundle (R54 to R59). -/
theorem runScl_kept (s : State) (c : Nat) (k0 : Core) (i : Nat) (x : SclSlot) : SclKept c s (s.runScl c k0 i x) := by
  unfold State.runScl
  extract_lets a b n r
  split
  · exact (Same.refl s).scl c
  split
  · unfold State.sld
    extract_lets r w
    have h : Same s r.1 := (Same.refl s).readRow _ _
    split
    · exact (h.poisonFault _ _ _ _).scl c
    · exact (h.modCore c ((CoreSame.refl _).later _ _ _ _ _)).scl c
  split
  · exact ((Same.refl s).modCore c ((CoreSame.refl _).later _ _ _ _ _)).scl c
  split
  · exact SclKept.modSc s c _ fun k => setS_still _ _ _
  split
  · exact SclKept.modSc s c _ fun k => setLc_still _ _ _
  split
  · exact SclKept.modSc s c _ fun k => setLc_still _ _ _
  split
  · refine SclKept.modSc s c _ fun k => ?_
    refine ⟨CoreStill.trans ?_ (setS_still _ _ _).1, (setS_still _ _ _).2.trans rfl⟩
    exact ⟨rfl, rfl, rfl, rfl, rfl, fun _ h => h⟩
  split
  · exact (Same.refl s).scl c
  · exact SclKept.modSc s c _ fun k => setS_still _ _ _

/-! ### The whole bundle -/

/-- The matrix and the vector slot of a bundle that issues at index i (R47). -/
def State.runMatVec (s : State) (c : Nat) (b : Bundle) (i : Nat) : State :=
  (s.runMat c (s.core c) b.mat).runVec c (s.core c) i b.vec

theorem runMatVec_kept (s : State) (c : Nat) (b : Bundle) (i : Nat) : Kept s (s.runMatVec c b i) :=
  ((Kept.refl s).runMat _ _ _).runVec _ _ _ _

/-- A bundle of bundle memory writes no gather masks (R203 gives them to the sequencer's bundles). -/
theorem atIssue_masks (k : Core) : k.atIssue.masks = none := rfl

theorem runSlots_rest (s : State) (c : Nat) {b : Bundle} (hb : b.masks = none) (i : Nat) :
    Same ((s.runMatVec c b i).runScl c (s.core c) i b.scl) (s.runSlots c b i) := by
  unfold State.runSlots
  simp only [hb]
  exact ((Same.refl _).runLms _ _ _ _).runCtl _ _ _

theorem advance_still (k k0 : Core) (b : Bundle) (i : Nat) (g : Bool) :
    CoreStill k ((if g then k.advanceSeq else k.advance k0 b i).issued b) ∧
      ((if g then k.advanceSeq else k.advance k0 b i).issued b).sc = k.sc := by
  cases g <;> exact ⟨⟨rfl, rfl, rfl, rfl, rfl, fun _ h => h⟩, rfl⟩

/-- What follows the scalar slot leaves the units as the scalar slot left them. -/
theorem runBundle_rest (s : State) (c : Nat) {b : Bundle} (hb : b.masks = none) (i : Nat) (g : Bool) :
    Around s (s.runBundle c b i g) ∧ ∀ d,
      CoreStill (((s.runMatVec c b i).runScl c (s.core c) i b.scl).core d) ((s.runBundle c b i g).core d) ∧
      ((s.runBundle c b i g).core d).sc = (((s.runMatVec c b i).runScl c (s.core c) i b.scl).core d).sc := by
  have h1 := runMatVec_kept s c b i
  have h2 := runSlots_rest s c hb i
  unfold State.runBundle
  extract_lets k0 s1 s2
  have h3 : Around s s2 := h1.toAround.trans ((runScl_kept _ c k0 i b.scl).toAround.trans
    (h2.toAround.trans ⟨rfl, rfl, rfl, rfl, rfl, rfl, rfl, rfl, rfl, rfl, fun _ => rfl⟩))
  have h4 : ∀ d, CoreStill (((s.runMatVec c b i).runScl c k0 i b.scl).core d) (s2.core d) ∧
      (s2.core d).sc = (((s.runMatVec c b i).runScl c k0 i b.scl).core d).sc := by
    intro d
    have hk := h2.core d
    by_cases hd : d = c
    · subst hd
      have := advance_still (s1.core d) k0 b i g
      simp only [s2, State.core_modCore_self]
      exact ⟨hk.toCoreStill.trans this.1, this.2.trans hk.sc⟩
    · simp only [s2, State.core_modCore_ne _ _ hd]
      exact ⟨hk.toCoreStill, hk.sc⟩
  split
  · have h5 := (Same.refl s2).panelEnd c
    exact ⟨h3.trans h5.toAround, fun d => ⟨(h4 d).1.trans (h5.core d).toCoreStill, ((h5.core d).sc).trans (h4 d).2⟩⟩
  · exact ⟨h3, h4⟩

/-- The units after a bundle are as its matrix and vector slots left them; only the scalar slot wrote the scalar
unit. -/
theorem runBundle_units (s : State) (c : Nat) {b : Bundle} (hb : b.masks = none) (i : Nat) (g : Bool) (d : Nat) :
    CoreStill ((s.runMatVec c b i).core d) ((s.runBundle c b i g).core d) :=
  ((runScl_kept _ c _ i b.scl).core d).trans ((runBundle_rest s c hb i g).2 d).1

/-- Issue goes on where the branch, the delay bundle or the order of the memory says (R49, R50, R58). -/
theorem runBundle_point (s : State) (c : Nat) {b : Bundle} (hb : b.masks = none) (i : Nat) :
    ((s.runBundle c b i false).core c).is.point =
      (if (s.core c).is.delay then (s.core c).is.target else i + 1, isBranch b.scl.op, branchTo (s.core c) i b.scl,
        (s.core c).is.clk + 1 + (if b.mark then 0 else b.run), i, false, (s.core c).is.delay) := by
  have h1 := runMatVec_kept s c b i
  have h2 := runSlots_rest s c hb i
  have hclk : ((s.runSlots c b i).core c).is.clk = (s.core c).is.clk := by
    rw [(h2.core c).clk, ((runScl_kept _ c _ i b.scl).core c).clk, (h1.core c).clk]
  unfold State.runBundle
  extract_lets k0 s1 s2
  have h3 : (s2.core c).is.point = (if k0.is.delay then k0.is.target else i + 1, isBranch b.scl.op,
      branchTo k0 i b.scl, k0.is.clk + 1 + (if b.mark then 0 else b.run), i, false, k0.is.delay) := by
    simp [s2, s1, Core.advance, Core.issued, Issue.point, hclk, k0]
  split
  · rw [(((Same.refl s2).panelEnd c).core c).point, h3]
  · exact h3

end Sys2Proof.Machine
end

