-- ==== Sys2Proof/WellFormed.lean ====
section
/-!
DEFINITION. Well-formed commands: every unit that a command names is one that the device has. A command that is not
well-formed is a fault of the machine that names it, never an effect.
-/

namespace Sys2Proof

/-- What a command may name by number. -/
inductive UnitKind where
  | core | engine | queue | route | mailbox | party | wait | home | bay | region | port | coord | lane | cpLane | check
  | stack | pseudoChannel | channel | bankSet | entry | sandUnit | sensor | link | module | semKind
deriving DecidableEq, Repr

/-- How many of each the device has: 1,792 cores (R13) with 4 engines (R222), 8 queues and routes and 4 mailboxes (R267,
R273), 7 parties that wait on semaphores and the bundle that the engine's queue holds as an eighth; 1,829 homes (R253); 32 bays and
37 clock regions (R355); 13 ports with 17 lanes, 4,096 coordinates (R320, R329); 12 stacks of 64 pseudo-channels, 8
channels of 4 bank sets (R293, R301); 256 Weight Directory entries (R304); 2,048 physical cores, of which those that
serve no logical core follow them (R379); 4 tamper sensors (R403); 8 scrim links of 16 modules (R323); 4 semaphore operations
(Table 14-4). -/
def UnitKind.count : UnitKind → Nat
  | .core => 1792
  | .engine | .mailbox | .cpLane | .bankSet | .sensor | .semKind => 4
  | .queue | .route | .wait | .channel | .link => 8
  | .party => 7
  | .home => 1829
  | .bay => 32
  | .region => 37
  | .port => 13
  | .coord => 4096
  | .lane => 17
  | .module => 16
  | .check => 3
  | .stack => 12
  | .pseudoChannel => 64
  | .entry => 256
  | .sandUnit => 2048

/-- The units that a command names. -/
def unitsOf : Instr → List (UnitKind × Nat)
  | .ident _ | .attest _ | .read _ | .write _ | .load _ | .start _ | .stop _ | .halt _ | .status _ | .setcap _
  | .reset _ | .freeze _ | .readrec _ | .unfreeze _ | .controlLinkTrain | .secSession _ | .secOwnerIn _
  | .secDbgChal | .secDbgResp _ | .dbgChallengeExpiry | .wdFlip _ | .seqCommit _ | .seqExpansionDone | .marchOnchip
  | .marchHbm | .marchDdr5 | .marchDone _ | .sandMarchFailClear | .scrStatus _ | .seqStatus _ | .scrClear _
  | .hbmClear _ | .ddrClear _ | .wdClear _ | .seqClear _ | .fabClear _ | .govClear _ | .acgClear _ | .xngClear _
  | .sandClear _ | .secClear _ | .cpClear _ | .registerWrite _ _ | .haltComplete | .mergedLineReturn _
  | .governorEvaluation _ | .watchdog | .rootTimeStart | .recorderEvent | .pwrGoodAssert _ | .pwrGoodDeassert
  | .railRetry _ | .lockTimeout | .coolantFlowLoss | .illegalCommand _ _ => []
  | .controlLinkDown lane => [(.cpLane, lane)]
  | .tamperTrip sensor => [(.sensor, sensor)]
  | .wdFlipComplete e => [(.entry, e)]
  | .coreReset c | .coreFaultInfo c _ | .pnlClear c _ | .coreClear c _ | .coreFv2Clear c _ | .maClear c _
  | .wsClear c _ | .veClear c _ | .spClear c _ | .coreStnClear c _ | .seClear c _ | .qClear c _ | .nop c | .add c
  | .sub c | .mul c | .and c | .or c | .xor c | .shl c | .shr c | .sra c | .min c | .max c | .slt c | .sltu c
  | .addi c | .andi c | .ori c | .shli c | .shri c | .lui c | .sld c | .sst c | .beq c | .bne c | .blt c | .bge c
  | .bltu c | .jmp c | .jal c | .jr c | .lset c | .lend c | .rdsys c | .panelEnd c | .panelStart c | .panelPost c
  | .coreHalt c | .mma c | .mret c | .mdrop c | .wld c | .retirementMove c | .tileReady c | .vadd c | .vsub c
  | .vmul c | .vfma c | .vfnma c | .vmin c | .vmax c | .vabs c | .vneg c | .vamax c | .vcvtif c | .vcvtfi c
  | .vsplit c | .vsel c | .vmov c | .vclt c | .vcle c | .vceq c | .viadd c | .visub c | .vimul c | .vand c | .vor c
  | .vxor c | .vshl c | .vshr c | .vsra c | .vimin c | .vimax c | .viclt c | .vmand c | .vmor c | .vmxor c
  | .vmnot c | .vmld c | .vexp2 c | .vlog2 c | .vrsqrt c | .vrecip c | .vrand c | .vdrop c | .vrsum c | .vrmax c
  | .vrmin c | .vrisum c | .vmcnt c | .vld c | .vldsc c | .vst c | .vstq c | .vstsc c | .vmxsc c | .vftqdrop c
  | .lfill c | .lcopy c | .lseg c | .lmOpStart c | .lsegAct c | .lmOpComplete c | .scrubRead c | .sgo c | .spld c
  | .sstop c | .lineRowLand c _ | .lineComplete c _ | .lineErrorResponse c _ _ | .memoryRequest c _ _ | .qSend c
  | .qRecv c | .mbSend c | .mbFree c | .semWait c | .semWsub c | .semAdd c | .semSub c | .semFenceRelease c
  | .bankHoldTimeout c | .stld c | .stgo c | .stldgo c | .stencilFrontStart c | .sequencerIssue c
  | .stencilChainLoad c | .stencilComplete c | .sandingAbort c | .sandingOverdueCheck c | .stldDone c =>
    [(.core, c)]
  | .portDisable p | .retrain p | .fabPortClear p _ | .heartbeatSend p | .heartbeat p _ | .heartbeatTimeout p
  | .portSignalLoss p | .portDetect p _ | .portTrainDone p _ | .trainTimeout p | .portIdent p _ => [(.port, p)]
  | .spldDone c e | .send c e | .sbase c e | .sldi c e | .sadd c e | .swrap c e | .sread c e | .swrite c e
  | .sgath c e | .sloop c e | .snext c e | .swait c e | .spost c e | .spostRelease c e | .srate c e
  | .lineRequest c e => [(.core, c), (.engine, e)]
  | .hbmRefreshWindow s pc => [(.stack, s), (.pseudoChannel, pc)]
  | .hbmTempReport s _ | .hbmRefRate s => [(.stack, s)]
  | .ddrRefreshWindow ch set => [(.channel, ch), (.bankSet, set)]
  | .queueMessageArrival c q => [(.core, c), (.queue, q)]
  | .creditReturn c r | .closeNotice c r | .mailboxCredit c r => [(.core, c), (.route, r)]
  | .mailboxRecordLand c m => [(.core, c), (.mailbox, m)]
  | .semHomeCycle place => [(.home, place)]
  | .semRelease c party | .semWaitResend c party | .remoteWaitExpiry c party => [(.core, c), (.party, party)]
  | .waitLimitExpiry c party => [(.core, c), (.wait, party)]
  | .tokenMeterCycle b _ | .bayStepApply b => [(.bay, b)]
  | .supplyDroop r _ | .regionUv r | .replicaFail r | .supplyRecovery r => [(.region, r)]
  | .sandingPassStart c | .sandingPassDone c _ => [(.sandUnit, c)]
  | .laneRepair p x => [(.port, p), (.lane, x.lane)]
  | .groupReplay p kind => [(.port, p), (.check, kind)]
  | .semOp h kind _ _ => [(.port, h.port), (.coord, h.src), (.coord, h.dst), (.semKind, kind)]
  | .rdLine h _ | .wrLine h _ _ | .mbxRec h _ _ | .mbxCredit h _ | .close h | .rdData h _ _
  | .wrAck h | .semDone h _ | .retry h | .err h _ | .mbxAck h | .jobFault h _ _ _ | .unsupportedTransaction h _ =>
    [(.port, h.port), (.coord, h.src), (.coord, h.dst)]
  | .ddrLatchOpen ch => [(.channel, ch)]
  | .scrimModuleFail link module => [(.link, link), (.module, module)]

/-- Every unit that the command names exists. -/
def wellFormed (i : Instr) : Bool := (unitsOf i).all fun u => decide (u.2 < u.1.count)

end Sys2Proof
end

