-- ==== Sys2Proof/Laws/PerInstr.lean ====
section
/-!
SUPPORT. Per command: it is well-formed exactly when each unit that it names lies below the number of such units.
-/

namespace Sys2Proof.Laws.Units

def Statement (i : Instr) : Prop := wellFormed i = true ↔ ∀ u ∈ unitsOf i, u.2 < u.1.count

theorem every (i : Instr) : Statement i := by simp [Statement, wellFormed]

theorem ident (f : Frame) : Statement (.ident f) := every _
theorem attest (f : Frame) : Statement (.attest f) := every _
theorem read (f : Frame) : Statement (.read f) := every _
theorem write (f : Frame) : Statement (.write f) := every _
theorem load (f : Frame) : Statement (.load f) := every _
theorem start (f : Frame) : Statement (.start f) := every _
theorem stop (f : Frame) : Statement (.stop f) := every _
theorem halt (f : Frame) : Statement (.halt f) := every _
theorem status (f : Frame) : Statement (.status f) := every _
theorem setcap (f : Frame) : Statement (.setcap f) := every _
theorem reset (f : Frame) : Statement (.reset f) := every _
theorem freeze (f : Frame) : Statement (.freeze f) := every _
theorem readrec (f : Frame) : Statement (.readrec f) := every _
theorem unfreeze (f : Frame) : Statement (.unfreeze f) := every _
theorem controlLinkTrain : Statement .controlLinkTrain := every _
theorem controlLinkDown (lane : Nat) : Statement (.controlLinkDown lane) := every _
theorem secSession (v : SessionIn) : Statement (.secSession v) := every _
theorem secOwnerIn (v : OwnerIn) : Statement (.secOwnerIn v) := every _
theorem secDbgChal : Statement .secDbgChal := every _
theorem secDbgResp (verifies : Bool) : Statement (.secDbgResp verifies) := every _
theorem dbgChallengeExpiry : Statement .dbgChallengeExpiry := every _
theorem tamperTrip (sensor : Nat) : Statement (.tamperTrip sensor) := every _
theorem wdFlip (v : DWord) : Statement (.wdFlip v) := every _
theorem wdFlipComplete (e : Nat) : Statement (.wdFlipComplete e) := every _
theorem seqCommit (v : Word) : Statement (.seqCommit v) := every _
theorem seqExpansionDone : Statement .seqExpansionDone := every _
theorem marchOnchip : Statement .marchOnchip := every _
theorem marchHbm : Statement .marchHbm := every _
theorem marchDdr5 : Statement .marchDdr5 := every _
theorem marchDone (found : MarchFindings) : Statement (.marchDone found) := every _
theorem sandMarchFailClear : Statement .sandMarchFailClear := every _
theorem coreReset (c : Nat) : Statement (.coreReset c) := every _
theorem portDisable (p : Nat) : Statement (.portDisable p) := every _
theorem retrain (p : Nat) : Statement (.retrain p) := every _
theorem coreFaultInfo (c : Nat) (v : Word) : Statement (.coreFaultInfo c v) := every _
theorem scrStatus (v : Word) : Statement (.scrStatus v) := every _
theorem seqStatus (v : Word) : Statement (.seqStatus v) := every _
theorem scrClear (v : Word) : Statement (.scrClear v) := every _
theorem pnlClear (c : Nat) (v : Word) : Statement (.pnlClear c v) := every _
theorem coreClear (c : Nat) (v : Word) : Statement (.coreClear c v) := every _
theorem coreFv2Clear (c : Nat) (v : Word) : Statement (.coreFv2Clear c v) := every _
theorem maClear (c : Nat) (v : Word) : Statement (.maClear c v) := every _
theorem wsClear (c : Nat) (v : Word) : Statement (.wsClear c v) := every _
theorem veClear (c : Nat) (v : Word) : Statement (.veClear c v) := every _
theorem spClear (c : Nat) (v : Word) : Statement (.spClear c v) := every _
theorem coreStnClear (c : Nat) (v : Word) : Statement (.coreStnClear c v) := every _
theorem seClear (c : Nat) (v : Word) : Statement (.seClear c v) := every _
theorem qClear (c : Nat) (v : Word) : Statement (.qClear c v) := every _
theorem hbmClear (v : Word) : Statement (.hbmClear v) := every _
theorem ddrClear (v : Word) : Statement (.ddrClear v) := every _
theorem wdClear (v : Word) : Statement (.wdClear v) := every _
theorem seqClear (v : Word) : Statement (.seqClear v) := every _
theorem fabClear (v : Word) : Statement (.fabClear v) := every _
theorem fabPortClear (p : Nat) (v : Word) : Statement (.fabPortClear p v) := every _
theorem govClear (v : Word) : Statement (.govClear v) := every _
theorem acgClear (v : Word) : Statement (.acgClear v) := every _
theorem xngClear (v : Word) : Statement (.xngClear v) := every _
theorem sandClear (v : Word) : Statement (.sandClear v) := every _
theorem secClear (v : Word) : Statement (.secClear v) := every _
theorem cpClear (v : Word) : Statement (.cpClear v) := every _
theorem registerWrite (off : Nat) (v : Word) : Statement (.registerWrite off v) := every _
theorem nop (c : Nat) : Statement (.nop c) := every _
theorem add (c : Nat) : Statement (.add c) := every _
theorem sub (c : Nat) : Statement (.sub c) := every _
theorem mul (c : Nat) : Statement (.mul c) := every _
theorem and (c : Nat) : Statement (.and c) := every _
theorem or (c : Nat) : Statement (.or c) := every _
theorem xor (c : Nat) : Statement (.xor c) := every _
theorem shl (c : Nat) : Statement (.shl c) := every _
theorem shr (c : Nat) : Statement (.shr c) := every _
theorem sra (c : Nat) : Statement (.sra c) := every _
theorem min (c : Nat) : Statement (.min c) := every _
theorem max (c : Nat) : Statement (.max c) := every _
theorem slt (c : Nat) : Statement (.slt c) := every _
theorem sltu (c : Nat) : Statement (.sltu c) := every _
theorem addi (c : Nat) : Statement (.addi c) := every _
theorem andi (c : Nat) : Statement (.andi c) := every _
theorem ori (c : Nat) : Statement (.ori c) := every _
theorem shli (c : Nat) : Statement (.shli c) := every _
theorem shri (c : Nat) : Statement (.shri c) := every _
theorem lui (c : Nat) : Statement (.lui c) := every _
theorem sld (c : Nat) : Statement (.sld c) := every _
theorem sst (c : Nat) : Statement (.sst c) := every _
theorem beq (c : Nat) : Statement (.beq c) := every _
theorem bne (c : Nat) : Statement (.bne c) := every _
theorem blt (c : Nat) : Statement (.blt c) := every _
theorem bge (c : Nat) : Statement (.bge c) := every _
theorem bltu (c : Nat) : Statement (.bltu c) := every _
theorem jmp (c : Nat) : Statement (.jmp c) := every _
theorem jal (c : Nat) : Statement (.jal c) := every _
theorem jr (c : Nat) : Statement (.jr c) := every _
theorem lset (c : Nat) : Statement (.lset c) := every _
theorem lend (c : Nat) : Statement (.lend c) := every _
theorem rdsys (c : Nat) : Statement (.rdsys c) := every _
theorem panelEnd (c : Nat) : Statement (.panelEnd c) := every _
theorem panelStart (c : Nat) : Statement (.panelStart c) := every _
theorem panelPost (c : Nat) : Statement (.panelPost c) := every _
theorem coreHalt (c : Nat) : Statement (.coreHalt c) := every _
theorem haltComplete : Statement .haltComplete := every _
theorem mma (c : Nat) : Statement (.mma c) := every _
theorem mret (c : Nat) : Statement (.mret c) := every _
theorem mdrop (c : Nat) : Statement (.mdrop c) := every _
theorem wld (c : Nat) : Statement (.wld c) := every _
theorem retirementMove (c : Nat) : Statement (.retirementMove c) := every _
theorem tileReady (c : Nat) : Statement (.tileReady c) := every _
theorem vadd (c : Nat) : Statement (.vadd c) := every _
theorem vsub (c : Nat) : Statement (.vsub c) := every _
theorem vmul (c : Nat) : Statement (.vmul c) := every _
theorem vfma (c : Nat) : Statement (.vfma c) := every _
theorem vfnma (c : Nat) : Statement (.vfnma c) := every _
theorem vmin (c : Nat) : Statement (.vmin c) := every _
theorem vmax (c : Nat) : Statement (.vmax c) := every _
theorem vabs (c : Nat) : Statement (.vabs c) := every _
theorem vneg (c : Nat) : Statement (.vneg c) := every _
theorem vamax (c : Nat) : Statement (.vamax c) := every _
theorem vcvtif (c : Nat) : Statement (.vcvtif c) := every _
theorem vcvtfi (c : Nat) : Statement (.vcvtfi c) := every _
theorem vsplit (c : Nat) : Statement (.vsplit c) := every _
theorem vsel (c : Nat) : Statement (.vsel c) := every _
theorem vmov (c : Nat) : Statement (.vmov c) := every _
theorem vclt (c : Nat) : Statement (.vclt c) := every _
theorem vcle (c : Nat) : Statement (.vcle c) := every _
theorem vceq (c : Nat) : Statement (.vceq c) := every _
theorem viadd (c : Nat) : Statement (.viadd c) := every _
theorem visub (c : Nat) : Statement (.visub c) := every _
theorem vimul (c : Nat) : Statement (.vimul c) := every _
theorem vand (c : Nat) : Statement (.vand c) := every _
theorem vor (c : Nat) : Statement (.vor c) := every _
theorem vxor (c : Nat) : Statement (.vxor c) := every _
theorem vshl (c : Nat) : Statement (.vshl c) := every _
theorem vshr (c : Nat) : Statement (.vshr c) := every _
theorem vsra (c : Nat) : Statement (.vsra c) := every _
theorem vimin (c : Nat) : Statement (.vimin c) := every _
theorem vimax (c : Nat) : Statement (.vimax c) := every _
theorem viclt (c : Nat) : Statement (.viclt c) := every _
theorem vmand (c : Nat) : Statement (.vmand c) := every _
theorem vmor (c : Nat) : Statement (.vmor c) := every _
theorem vmxor (c : Nat) : Statement (.vmxor c) := every _
theorem vmnot (c : Nat) : Statement (.vmnot c) := every _
theorem vmld (c : Nat) : Statement (.vmld c) := every _
theorem vexp2 (c : Nat) : Statement (.vexp2 c) := every _
theorem vlog2 (c : Nat) : Statement (.vlog2 c) := every _
theorem vrsqrt (c : Nat) : Statement (.vrsqrt c) := every _
theorem vrecip (c : Nat) : Statement (.vrecip c) := every _
theorem vrand (c : Nat) : Statement (.vrand c) := every _
theorem vdrop (c : Nat) : Statement (.vdrop c) := every _
theorem vrsum (c : Nat) : Statement (.vrsum c) := every _
theorem vrmax (c : Nat) : Statement (.vrmax c) := every _
theorem vrmin (c : Nat) : Statement (.vrmin c) := every _
theorem vrisum (c : Nat) : Statement (.vrisum c) := every _
theorem vmcnt (c : Nat) : Statement (.vmcnt c) := every _
theorem vld (c : Nat) : Statement (.vld c) := every _
theorem vldsc (c : Nat) : Statement (.vldsc c) := every _
theorem vst (c : Nat) : Statement (.vst c) := every _
theorem vstq (c : Nat) : Statement (.vstq c) := every _
theorem vstsc (c : Nat) : Statement (.vstsc c) := every _
theorem vmxsc (c : Nat) : Statement (.vmxsc c) := every _
theorem vftqdrop (c : Nat) : Statement (.vftqdrop c) := every _
theorem lfill (c : Nat) : Statement (.lfill c) := every _
theorem lcopy (c : Nat) : Statement (.lcopy c) := every _
theorem lseg (c : Nat) : Statement (.lseg c) := every _
theorem lmOpStart (c : Nat) : Statement (.lmOpStart c) := every _
theorem lsegAct (c : Nat) : Statement (.lsegAct c) := every _
theorem lmOpComplete (c : Nat) : Statement (.lmOpComplete c) := every _
theorem scrubRead (c : Nat) : Statement (.scrubRead c) := every _
theorem sgo (c : Nat) : Statement (.sgo c) := every _
theorem spld (c : Nat) : Statement (.spld c) := every _
theorem spldDone (c : Nat) (e : Nat) : Statement (.spldDone c e) := every _
theorem sstop (c : Nat) : Statement (.sstop c) := every _
theorem send (c : Nat) (e : Nat) : Statement (.send c e) := every _
theorem sbase (c : Nat) (e : Nat) : Statement (.sbase c e) := every _
theorem sldi (c : Nat) (e : Nat) : Statement (.sldi c e) := every _
theorem sadd (c : Nat) (e : Nat) : Statement (.sadd c e) := every _
theorem swrap (c : Nat) (e : Nat) : Statement (.swrap c e) := every _
theorem sread (c : Nat) (e : Nat) : Statement (.sread c e) := every _
theorem swrite (c : Nat) (e : Nat) : Statement (.swrite c e) := every _
theorem sgath (c : Nat) (e : Nat) : Statement (.sgath c e) := every _
theorem sloop (c : Nat) (e : Nat) : Statement (.sloop c e) := every _
theorem snext (c : Nat) (e : Nat) : Statement (.snext c e) := every _
theorem swait (c : Nat) (e : Nat) : Statement (.swait c e) := every _
theorem spost (c : Nat) (e : Nat) : Statement (.spost c e) := every _
theorem spostRelease (c : Nat) (e : Nat) : Statement (.spostRelease c e) := every _
theorem srate (c : Nat) (e : Nat) : Statement (.srate c e) := every _
theorem lineRequest (c : Nat) (e : Nat) : Statement (.lineRequest c e) := every _
theorem lineRowLand (c : Nat) (src : LandSrc) : Statement (.lineRowLand c src) := every _
theorem lineComplete (c : Nat) (tag : Nat) : Statement (.lineComplete c tag) := every _
theorem lineErrorResponse (c : Nat) (tag : Nat) (code : Nat) : Statement (.lineErrorResponse c tag code) := every _
theorem memoryRequest (c : Nat) (tag : Nat) (ecc : EccFind) : Statement (.memoryRequest c tag ecc) := every _
theorem mergedLineReturn (entry : Nat) : Statement (.mergedLineReturn entry) := every _
theorem hbmRefreshWindow (s : Nat) (pc : Nat) : Statement (.hbmRefreshWindow s pc) := every _
theorem hbmTempReport (s : Nat) (deg : Nat) : Statement (.hbmTempReport s deg) := every _
theorem hbmRefRate (s : Nat) : Statement (.hbmRefRate s) := every _
theorem ddrRefreshWindow (ch : Nat) (set : Nat) : Statement (.ddrRefreshWindow ch set) := every _
theorem qSend (c : Nat) : Statement (.qSend c) := every _
theorem qRecv (c : Nat) : Statement (.qRecv c) := every _
theorem mbSend (c : Nat) : Statement (.mbSend c) := every _
theorem mbFree (c : Nat) : Statement (.mbFree c) := every _
theorem queueMessageArrival (c : Nat) (q : Nat) : Statement (.queueMessageArrival c q) := every _
theorem creditReturn (c : Nat) (r : Nat) : Statement (.creditReturn c r) := every _
theorem closeNotice (c : Nat) (r : Nat) : Statement (.closeNotice c r) := every _
theorem mailboxRecordLand (c : Nat) (m : Nat) : Statement (.mailboxRecordLand c m) := every _
theorem mailboxCredit (c : Nat) (r : Nat) : Statement (.mailboxCredit c r) := every _
theorem semWait (c : Nat) : Statement (.semWait c) := every _
theorem semWsub (c : Nat) : Statement (.semWsub c) := every _
theorem semAdd (c : Nat) : Statement (.semAdd c) := every _
theorem semSub (c : Nat) : Statement (.semSub c) := every _
theorem semFenceRelease (c : Nat) : Statement (.semFenceRelease c) := every _
theorem semHomeCycle (place : Nat) : Statement (.semHomeCycle place) := every _
theorem semRelease (c : Nat) (party : Nat) : Statement (.semRelease c party) := every _
theorem semWaitResend (c : Nat) (party : Nat) : Statement (.semWaitResend c party) := every _
theorem waitLimitExpiry (c : Nat) (party : Nat) : Statement (.waitLimitExpiry c party) := every _
theorem remoteWaitExpiry (c : Nat) (party : Nat) : Statement (.remoteWaitExpiry c party) := every _
theorem bankHoldTimeout (c : Nat) : Statement (.bankHoldTimeout c) := every _
theorem stld (c : Nat) : Statement (.stld c) := every _
theorem stgo (c : Nat) : Statement (.stgo c) := every _
theorem stldgo (c : Nat) : Statement (.stldgo c) := every _
theorem stencilFrontStart (c : Nat) : Statement (.stencilFrontStart c) := every _
theorem sequencerIssue (c : Nat) : Statement (.sequencerIssue c) := every _
theorem stencilChainLoad (c : Nat) : Statement (.stencilChainLoad c) := every _
theorem stencilComplete (c : Nat) : Statement (.stencilComplete c) := every _
theorem tokenMeterCycle (b : Nat) (cy : BayCycle) : Statement (.tokenMeterCycle b cy) := every _
theorem supplyDroop (r : Nat) (mhz : Nat) : Statement (.supplyDroop r mhz) := every _
theorem regionUv (r : Nat) : Statement (.regionUv r) := every _
theorem replicaFail (r : Nat) : Statement (.replicaFail r) := every _
theorem governorEvaluation (x : Sensors) : Statement (.governorEvaluation x) := every _
theorem bayStepApply (b : Nat) : Statement (.bayStepApply b) := every _
theorem sandingPassStart (c : Nat) : Statement (.sandingPassStart c) := every _
theorem sandingPassDone (c : Nat) (ok : Bool) : Statement (.sandingPassDone c ok) := every _
theorem sandingAbort (c : Nat) : Statement (.sandingAbort c) := every _
theorem sandingOverdueCheck (c : Nat) : Statement (.sandingOverdueCheck c) := every _
theorem watchdog : Statement .watchdog := every _
theorem heartbeatSend (p : Nat) : Statement (.heartbeatSend p) := every _
theorem heartbeat (p : Nat) (h : HeartbeatIn) : Statement (.heartbeat p h) := every _
theorem rootTimeStart : Statement .rootTimeStart := every _
theorem heartbeatTimeout (p : Nat) : Statement (.heartbeatTimeout p) := every _
theorem portSignalLoss (p : Nat) : Statement (.portSignalLoss p) := every _
theorem portDetect (p : Nat) (gen : Nat) : Statement (.portDetect p gen) := every _
theorem portTrainDone (p : Nat) (failed : Nat) : Statement (.portTrainDone p failed) := every _
theorem trainTimeout (p : Nat) : Statement (.trainTimeout p) := every _
theorem portIdent (p : Nat) (id : NeighbourId) : Statement (.portIdent p id) := every _
theorem laneRepair (p : Nat) (x : LaneFec) : Statement (.laneRepair p x) := every _
theorem groupReplay (p : Nat) (kind : Nat) : Statement (.groupReplay p kind) := every _
theorem rdLine (h : FabHeader) (ecc : EccFind) : Statement (.rdLine h ecc) := every _
theorem wrLine (h : FabHeader) (line : List Byte) (poison : Bool) : Statement (.wrLine h line poison) := every _
theorem semOp (h : FabHeader) (kind : Nat) (amount : Nat) (deadline : Nat) : Statement (.semOp h kind amount deadline) := every _
theorem mbxRec (h : FabHeader) (rec : List Byte) (poison : List Bool) : Statement (.mbxRec h rec poison) := every _
theorem mbxCredit (h : FabHeader) (bytes : Nat) : Statement (.mbxCredit h bytes) := every _
theorem close (h : FabHeader) : Statement (.close h) := every _
theorem rdData (h : FabHeader) (line : List Byte) (poison : Bool) : Statement (.rdData h line poison) := every _
theorem wrAck (h : FabHeader) : Statement (.wrAck h) := every _
theorem semDone (h : FabHeader) (timeout : Bool) : Statement (.semDone h timeout) := every _
theorem retry (h : FabHeader) : Statement (.retry h) := every _
theorem err (h : FabHeader) (code : Nat) : Statement (.err h code) := every _
theorem mbxAck (h : FabHeader) : Statement (.mbxAck h) := every _
theorem jobFault (h : FabHeader) (serial : Nat) (reason : Nat) (tick : Nat) : Statement (.jobFault h serial reason tick) := every _
theorem recorderEvent : Statement .recorderEvent := every _
theorem pwrGoodAssert (boot : BootEnv) : Statement (.pwrGoodAssert boot) := every _
theorem pwrGoodDeassert : Statement .pwrGoodDeassert := every _
theorem railRetry (boot : BootEnv) : Statement (.railRetry boot) := every _
theorem lockTimeout : Statement .lockTimeout := every _
theorem coolantFlowLoss : Statement .coolantFlowLoss := every _
theorem ddrLatchOpen (ch : Nat) : Statement (.ddrLatchOpen ch) := every _
theorem stldDone (c : Nat) : Statement (.stldDone c) := every _
theorem scrimModuleFail (link : Nat) (module : Nat) : Statement (.scrimModuleFail link module) := every _
theorem supplyRecovery (r : Nat) : Statement (.supplyRecovery r) := every _
theorem illegalCommand (cmd : Nat) (f : Frame) : Statement (.illegalCommand cmd f) := every _
theorem unsupportedTransaction (h : FabHeader) (op : Nat) : Statement (.unsupportedTransaction h op) := every _

end Sys2Proof.Laws.Units
end

