-- ==== Sys2Proof/Laws/Rows.lean ====
section
/-!
SUPPORT. What a bundle row of the table does: an attempt on the bundle at the issue point that carries it.
-/

namespace Sys2Proof.Machine

theorem exec_scl (s : State) (c : Nat) : ∀ row ∈ rowsScl, exec (row.1 c) s = issueScl c row.2 s := by
  simp only [rowsScl, List.forall_mem_cons]
  repeat' apply And.intro
  all_goals first | rfl | exact fun _ h => absurd h List.not_mem_nil

theorem exec_mat (s : State) (c : Nat) : ∀ row ∈ rowsMat, exec (row.1 c) s = issueMat c row.2 s := by
  simp only [rowsMat, List.forall_mem_cons]
  repeat' apply And.intro
  all_goals first | rfl | exact fun _ h => absurd h List.not_mem_nil

theorem exec_vec (s : State) (c : Nat) : ∀ row ∈ rowsVec, exec (row.1 c) s = issueVec c row.2 s := by
  simp only [rowsVec, rowsVecLo, rowsVecHi, List.forall_mem_append, List.forall_mem_cons]
  repeat' apply And.intro
  all_goals first | rfl | exact fun _ h => absurd h List.not_mem_nil

theorem exec_lms (s : State) (c : Nat) : ∀ row ∈ rowsLms, exec (row.1 c) s = issueLms c row.2 s := by
  simp only [rowsLms, List.forall_mem_cons]
  repeat' apply And.intro
  all_goals first | rfl | exact fun _ h => absurd h List.not_mem_nil

theorem exec_ctl (s : State) (c : Nat) : ∀ row ∈ rowsCtl, exec (row.1 c) s = issueCtl c row.2 s := by
  simp only [rowsCtl, List.forall_mem_cons]
  repeat' apply And.intro
  all_goals first | rfl | exact fun _ h => absurd h List.not_mem_nil

/-- A row whose bundle issues runs that bundle whole. -/
theorem exec_row {s : State} {c : Nat} (h : s.issues c = true) {i : Instr} {p : Bundle → Bool}
    (hi : exec i s = onCore c s fun s => s.issue c p) (hp : p (s.core c).atIssue = true) :
    exec i s = .next ((s.ported c).runBundle c (s.core c).atIssue (s.core c).bundleIndex false) := by
  rw [hi, ← issue_of_issues h hp]
  exact if_pos (issues_core h)

/-- Every bundle row is an attempt on the bundle at the issue point. -/
theorem exec_bundleRow (s : State) (c : Nat) :
    ∀ row ∈ bundleRows, exec (row.1 c) s = onCore c s fun s => s.issue c row.2 := by
  intro row hr
  simp only [bundleRows, List.mem_append, List.mem_map, List.mem_cons, List.not_mem_nil, or_false] at hr
  rcases hr with ((((⟨r, hr, rfl⟩ | ⟨r, hr, rfl⟩) | ⟨r, hr, rfl⟩) | ⟨r, hr, rfl⟩) | ⟨r, hr, rfl⟩) | rfl | rfl
  · exact exec_scl s c r hr
  · exact exec_mat s c r hr
  · exact exec_vec s c r hr
  · exact exec_lms s c r hr
  · exact exec_ctl s c r hr
  · rfl
  · rfl

end Sys2Proof.Machine
end

