-- ==== Sys2Proof/Laws/Units.lean ====
section
/-!
SUPPORT. A command answers a next state exactly when every unit that it names exists.
-/

namespace Sys2Proof.Machine

/-- How command i ends in s: with a next state where it is well-formed, and naming the missing unit otherwise. -/
def Ends (i : Instr) (s : State) : Prop :=
  (wellFormed i = true ∧ ∃ t, exec i s = .next t) ∨ (wellFormed i = false ∧ exec i s = .fault .noSuchUnit)

theorem ends_next {i : Instr} {s t : State} (h : wellFormed i = true) (he : exec i s = .next t) : Ends i s :=
  .inl ⟨h, t, he⟩

theorem ends_unit {i : Instr} {s : State} {ok : Bool} {f : State → State} (h : wellFormed i = ok)
    (he : exec i s = onUnit ok s f) : Ends i s := by
  cases ok
  · exact .inr ⟨h, he⟩
  · exact .inl ⟨h, f s, he⟩

theorem ends_core {i : Instr} {s : State} {c : Nat} {f : State → State} (h : wellFormed i = decide (c < nCores))
    (he : exec i s = onCore c s f) : Ends i s := by
  by_cases hc : c < nCores
  · exact .inl ⟨by simpa [hc] using h, f s, by simpa [onCore, hc] using he⟩
  · exact .inr ⟨by simpa [hc] using h, by simpa [onCore, hc] using he⟩

/-- How every command ends. -/
theorem exec_ends (i : Instr) (s : State) : Ends i s := by
  cases i
  all_goals first
    | (refine ends_core ?_ (by rfl); exact Bool.and_true _)
    | (refine ends_unit ?_ (by rfl); first
        | exact Bool.and_true _
        | exact congrArg (_ && ·) (Bool.and_true _)
        | (simp [wellFormed, unitsOf, UnitKind.count, headerOk, nPorts, Bool.and_assoc]; rfl))
    | exact ends_next (by rfl) (by rfl)

end Sys2Proof.Machine
end

