-- ==== Sys2Proof/Tests/Slice0.lean ====
section
/-!
SUPPORT. The model's own tests: for every statement of Certificates/Slice0/Obligations.lean that has hypotheses a
state and operands that meet them (witness_<its name>), and the spec's worked examples (test_<what>).
-/

open Sys2Proof Sys2Proof.Machine

namespace Sys2Proof.Tests

set_option Elab.async false

/-! ### Small states -/

/-- A device in a state of Table 18-4 with its control link trained. -/
def dev (st : Nat) : State := { State.reset with ctl := { Ctl.init with st, lanes := 15 } }

/-- The device with core 0 as given. -/
def devCore (st : Nat) (k : Core) : State := { dev st with cores := [(0, k)] }

/-- A core inside a panel with a bundle at its issue point, routes 0 (QUEUE) and 1 (MAILBOX, ring 4,096), mailbox 0,
queue 0 with one message, a tile READY and bank 0 of array 0
in ACCUM. -/
def coreAt (bundle : Nat) : Core :=
  { Core.init with
    bm := mputs [] 0 (toBytes 32 bundle), pnl := { Panel.init with phase := 2 },
    regs := [(0x5000, 0x100), (0x7400, 1), (0x7420, 3), (0x7424, 0x100), (0x7500, 64 <<< 14), (0x7504, 1)],
    rts := [(0, ⟨1, 16, 0, 0⟩), (1, ⟨1, 4096, 0, 0⟩)],
    mbs := [(0, ⟨0, false, 64, []⟩)],
    qs := [(0, { InQ.init with msgs := [[7#32]], src := some (0, 0) })],
    sc := { Scalar.init with s := [(1, 64#32), (2, 5#32)] },
    mx := { MatUnit.init with ftq := [(0, { FtqEntry.init with st := 3, group := 14 })],
                              banks := [(0, { Bank.init with st := 1 })] } }

/-- A RUNNING device whose core 0 is at a bundle. -/
def atBundle (bundle : Nat) : State := devCore stRunning (coreAt bundle)

/-- The same, with the semaphore wait of the bundle released. -/
def atWait (bundle : Nat) : State :=
  let k := coreAt bundle
  devCore stRunning { k with is := { k.is with wait := some ⟨0, 0, false, 0, 0, 1, 0⟩ } }

def inScl (w : Nat) : Nat := w <<< 16
def inMat (w : Nat) : Nat := w <<< 56
def inVec (w : Nat) : Nat := w <<< 120
def inLms (w : Nat) : Nat := w <<< 176
def inCtl (w : Nat) : Nat := w <<< 208

/-- An operation of the vector slot in a form that the tables allow: a register pair for the draws, FP8 for the block
formats. -/
def vecForm (op : Nat) : Nat :=
  op + (if op = 0x38 ∨ op = 0x39 then 2 <<< 23 else if op = 0x4B ∨ op = 0x4D then 4 <<< 46 else 0)

/-- The same of the local-memory slot: one row, a copy from row 64. -/
def lmsForm (op : Nat) : Nat := op + 1 <<< 14 + (if op = 2 then 1 <<< 9 else 0)

/-- The same of the control slot: route 1 for MB.SEND, the core's own semaphore 0. -/
def ctlForm (op : Nat) : Nat :=
  op + (if op = 0x14 then 1 <<< 22 + 1 <<< 25 else if 0x18 ≤ op ∧ op ≤ 0x1B then 1 <<< 47 else 0)

/-- A device that issues each row of the bundle families. -/
def issuing : List State :=
  (rowsScl.map fun r => atBundle (inScl r.2)) ++ (rowsMat.map fun r => atBundle (inMat (r.2 + 1 <<< 12))) ++
    (rowsVec.map fun r => atBundle (inVec (vecForm r.2))) ++ (rowsLms.map fun r => atBundle (inLms (lmsForm r.2))) ++
    (rowsCtl.map fun r => atWait (inCtl (ctlForm r.2))) ++ [atBundle 0, atBundle 64]

/-! ### Witnesses: bundles -/

theorem witness_bundle_issue_point :
    issuing.length = bundleRows.length ∧
      ∀ x ∈ bundleRows.zip issuing, x.2.issues 0 = true ∧ x.1.2 (x.2.core 0).atIssue = true := by decide +kernel


theorem witness_bundle_issue_point_nop :
    let b := ((atBundle 0).core 0).atIssue
    (atBundle 0).issues 0 = true ∧ b.scl.op = 0 ∧ b.mat.mop = 0 ∧ b.vec.vop = 0 ∧ b.lms.lop = 0 ∧ b.ctl.cop = 0 ∧
      b.mark = false := by decide +kernel

theorem witness_bundle_frame :
    ∀ x ∈ bundleRows.zip issuing, x.2.issues 0 = true ∧ x.1.2 (x.2.core 0).atIssue = true :=
  witness_bundle_issue_point.2

theorem witness_scalar_results :
    (∀ row ∈ aluRows, (atBundle (inScl row.2.1)).issues 0 = true ∧
      ((atBundle (inScl row.2.1)).core 0).atIssue.scl.op = row.2.1) ∧
    ∀ i ∈ [0, 1, 2, 3, 11], (atBundle (inScl (0x30 + i <<< 23))).issues 0 = true ∧
      ((atBundle (inScl (0x30 + i <<< 23))).core 0).atIssue.scl.op = 0x30 := by decide +kernel

theorem witness_branches_and_loops :
    (∀ row ∈ branchRows, (atBundle (inScl row.2.1)).issues 0 = true ∧
      ((atBundle (inScl row.2.1)).core 0).atIssue.scl.op = row.2.1) ∧
    ∀ op ∈ [0x28, 0x29], (atBundle (inScl (op + 3 <<< 8))).issues 0 = true ∧
      ((atBundle (inScl (op + 3 <<< 8))).core 0).atIssue.scl.op = op := by decide +kernel

/-- ADD in a delay bundle. -/
theorem witness_branches_and_loops_delay :
    let k := coreAt (inScl 0x01)
    let s := devCore stRunning { k with is := { k.is with delay := true, target := 7 } }
    s.issues 0 = true ∧ (s.core 0).atIssue.scl.op = 0x01 ∧ (s.core 0).is.delay = true := by decide +kernel

/-- A load and a store at the first and at the last word of the scratchpad. -/
theorem witness_scalar_memory :
    ∀ x ∈ ([(0x18, 0), (0x19, 0), (0x18, 0xFFFFC), (0x19, 0xFFFFC)] : List (Nat × Nat)),
      let k := coreAt (inScl (x.1 + 3 <<< 13))
      let s := devCore stRunning { k with sc := { k.sc with s := [(3, BitVec.ofNat 32 x.2)] } }
      let a := sclAddr (s.core 0) (s.core 0).atIssue.scl
      s.issues 0 = true ∧ (s.core 0).atIssue.scl.op = x.1 ∧ a = x.2 ∧ (s.core 0).rowPoisoned (a / 64) = false ∧
        (s.core 0).rowErrs (a / 64) 2 = [] := by decide +kernel

theorem witness_vector_lanes :
    ∀ row ∈ laneRows, (atBundle (inVec row.2.1)).issues 0 = true ∧
      ((atBundle (inVec row.2.1)).core 0).atIssue.vec.vop = row.2.1 := by decide +kernel

theorem witness_vector_masks :
    (∀ row ∈ compareRows, (atBundle (inVec row.2.1)).issues 0 = true ∧
      ((atBundle (inVec row.2.1)).core 0).atIssue.vec.vop = row.2.1) ∧
    ∀ row ∈ maskRows, (atBundle (inVec row.2.1)).issues 0 = true ∧
      ((atBundle (inVec row.2.1)).core 0).atIssue.vec.vop = row.2.1 := by decide +kernel

theorem witness_vector_special_lanes :
    ∀ op ∈ [0x0C, 0x0E, 0x38, 0x39, 0x4D, 0x0D], (atBundle (inVec (vecForm op))).issues 0 = true ∧
      ((atBundle (inVec (vecForm op))).core 0).atIssue.vec.vop = op := by decide +kernel

/-- Reductions without options, with SEG, and with SEG and DS; VMCNT. -/
theorem witness_vector_reductions :
    (∀ op ∈ [0x40, 0x41, 0x42, 0x43], ∀ aux ∈ [0, 4, 6],
      let s := atBundle (inVec (op + aux <<< 50))
      let x := (s.core 0).atIssue.vec
      s.issues 0 = true ∧ x.vop = op ∧ bits x.vaux 2 1 = aux / 2 ∧ (vecArgs (s.core 0) x).poison = false) ∧
    let s := atBundle (inVec 0x44)
    s.issues 0 = true ∧ (s.core 0).atIssue.vec.vop = 0x44 ∧
      (vecArgs (s.core 0) (s.core 0).atIssue.vec).poison = false := by decide +kernel

theorem witness_vector_memory :
    ∀ op ∈ [0x48, 0x49, 0x4A, 0x4B, 0x4C], (atBundle (inVec (vecForm op))).issues 0 = true ∧
      ((atBundle (inVec (vecForm op))).core 0).atIssue.vec.vop = op := by decide +kernel

/-- A pop of group 14 and of group 15, an operation that pops nothing, and the drop of an entry. -/
theorem witness_queue_pops :
    (∀ g ∈ [14, 15],
      let k := coreAt (inVec (0x01 + 1 <<< 50))
      let s := devCore stRunning { k with mx := { k.mx with ftq := [(0, { FtqEntry.init with st := 3, group := g })] } }
      let x := (s.core 0).atIssue.vec
      s.issues 0 = true ∧ x.vop = 0x01 ∧ x.pops = true ∧ (s.core 0).ftqHead.group = g ∧ (s.core 0).mx.head < 4) ∧
    (∀ x ∈ [(0x01, false), (0x50, true)], (atBundle (inVec x.1)).issues 0 = true ∧
      ((atBundle (inVec x.1)).core 0).atIssue.vec.vop = x.1 ∧
      ((atBundle (inVec x.1)).core 0).atIssue.vec.pops = x.2) := by decide +kernel

/-- Products of array 0: one that goes on, one with INIT, one with LAST, and the first of a scaled block with SRD. -/
theorem witness_matrix_product :
    ∀ w ∈ [0, 1 <<< 54, 4 <<< 54, 8 <<< 6 + 4 <<< 14 + 1 <<< 26 + 3 <<< 54],
      let s := atBundle (inMat (0x01 + 1 <<< 12 + w))
      let x := (s.core 0).atIssue.mat
      s.issues 0 = true ∧ x.mop = 0x01 ∧ (tagOf x.fmt).isSome = true ∧ bit x.en 0 = true ∧ bit x.en 1 = false := by
  decide +kernel

theorem witness_block_close :
    ((0 : Nat) < 32 ∧ (31 : Nat) < 32) ∧
      ∀ fmt ∈ [0x0, 0x2, 0x6, 0x8, 0xC, 0xE], let x := matOf (0x01 + fmt <<< 6 + 1 <<< 54)
        (tagOf x.fmt).isSome = true ∧ x.fmt = fmt ∧ x.init = true := by decide +kernel

theorem witness_matrix_moves :
    ∀ op ∈ [0x02, 0x03, 0x04], (atBundle (inMat (op + 1 <<< 12))).issues 0 = true ∧
      ((atBundle (inMat (op + 1 <<< 12))).core 0).atIssue.mat.mop = op ∧
      ((atBundle (inMat (op + 1 <<< 12))).core 0).atIssue.mat.en = 1 ∧
      (((atBundle (inMat (op + 1 <<< 12))).core 0).bank 0 0).st = 1 := by decide +kernel

/-- LFILL, LCOPY, LSEG; SGO at instruction 31 with a program of SENDs; SPLD; SSTOP of a RUNNING engine; STLD, STGO,
STLDGO. -/
theorem witness_slot_starts :
    (∀ row ∈ rowsLms, (atBundle (inLms (lmsForm row.2))).issues 0 = true ∧
      ((atBundle (inLms (lmsForm row.2))).core 0).atIssue.lms.lop = row.2) ∧
    (let s := atBundle (inCtl (0x01 + 31 <<< 25))
     let k := s.core 0
     let x := k.atIssue.ctl
     s.issues 0 = true ∧ x.cop = 0x01 ∧ k.atIssue.mark = false ∧ x.imm ≤ 31 ∧
       (∀ j, j < 32 → siOk (k.sInstr x.idx j) = true) ∧ badHandles k x.idx = []) ∧
    (let k := coreAt (inCtl (0x03 + 3 <<< 22))
     let s := devCore stRunning { k with se := [(3, { Engine.init with run := 1 })] }
     s.issues 0 = true ∧ (s.core 0).atIssue.ctl.cop = 0x03 ∧ ((s.core 0).engine 3).run = 1) ∧
    ∀ op ∈ [0x02, 0x30, 0x31, 0x32], (atBundle (inCtl op)).issues 0 = true ∧
      ((atBundle (inCtl op)).core 0).atIssue.ctl.cop = op := by decide +kernel

theorem witness_queues_and_mailboxes :
    (∀ op ∈ [0x10, 0x11, 0x14, 0x15], (atBundle (inCtl (ctlForm op))).issues 0 = true ∧
      ((atBundle (inCtl (ctlForm op))).core 0).atIssue.ctl.cop = op) ∧
    ((coreAt 0).queue 0).msgs = [7#32] :: [] ∧ ((coreAt 0).queue 0).src = some (0, 0) ∧
    bits ((atBundle (inCtl (ctlForm 0x14))).core 0).atIssue.ctl.imm 3 0 ≠ 0 ∧
    mbCoord ((coreAt 0).mbxCfg 0) = (dev stRunning).fab.coord := by decide +kernel

theorem witness_semaphore_operations :
    (∀ op ∈ [0x18, 0x19], (atWait (inCtl (ctlForm op))).issues 0 = true ∧
      ((atWait (inCtl (ctlForm op))).core 0).atIssue.ctl.cop = op) ∧
    ∀ op ∈ [0x1A, 0x1B],
      let s := atBundle (inCtl (ctlForm op + 127 <<< 40))
      let x := (s.core 0).atIssue.ctl
      s.issues 0 = true ∧ x.cop = op ∧ x.fence = false ∧ (s.core 0).sync = [] ∧
        gaCoord (semAddr (s.core 0) s.fab.coord 0 x) = s.fab.coord ∧
        semPlace (gaOff (semAddr (s.core 0) s.fab.coord 0 x)) = some 0 := by decide +kernel

/-- A bundle held on a pending S register and one whose row port is taken. -/
theorem witness_bundle_not_issued :
    (let k := coreAt (inScl 0x01)
     let k := { k with inflight := [⟨.sreg 1 0#32, true, 7, 0, 0, 0⟩] }
     let k := { k with bm := mputs [] 0 (toBytes 32 (inScl (0x01 + 1 <<< 13))) }
     let s := devCore stRunning k
     s.ctl.st = stRunning ∧ (s.core 0).mayIssue = true ∧ (s.core 0).stn.active = false ∧
       (s.core 0).atIssue.scl.op = 0x01 ∧
       holdCause k s.fab.coord 0 (s.cyc 0) k.atIssue k.bundleIndex = some 0) ∧
    (let k := coreAt (inScl 0x18)
     let k := { k with is := { k.is with ports := [(false, bankOf 0, 16, 5)] } }
     let s := devCore stRunning k
     (s.core 0).mayIssue = true ∧ (s.core 0).stn.active = false ∧ (s.core 0).atIssue.scl.op = 0x18 ∧
       holdCause k s.fab.coord 0 (s.cyc 0) k.atIssue k.bundleIndex = none ∧
       bundleViols k s.fab.coord 0 (s.cyc 0) k.atIssue k.bundleIndex = [] ∧
       (tryPorts k k.atIssue (s.cyc 0)).lost ≠ []) := by
  decide +kernel

/-- A branch with MARK: violation 2 of Table 03-12. -/
theorem witness_bundle_violation :
    let k := coreAt (inScl 0x25 + 64)
    let s := devCore stRunning k
    s.ctl.st = stRunning ∧ (s.core 0).mayIssue = true ∧ (s.core 0).stn.active = false ∧
      (s.core 0).atIssue.scl.op = 0x25 ∧ holdCause k s.fab.coord 0 (s.cyc 0) k.atIssue k.bundleIndex = none ∧
      bundleViols k s.fab.coord 0 (s.cyc 0) k.atIssue k.bundleIndex = ⟨1, 0x32, 0, rCoreViol⟩ :: [] ∧
      bit (k.reg rFaultInfo) 8 = false ∧
      (⟨5, 0, 7, 0, 0, some (0, 0)⟩ : FaultInfo).sameCycle s.scr.ns (some (bayOf 0, s.cyc 0)) = true := by decide +kernel

/-- A marked bundle of NOPs in a panel without POST, with POST on handle 3 of its semaphores, and with POST on a handle that
is not valid. -/
theorem witness_panel_end :
    let marked (regs : AMap Nat) : State := devCore stRunning { coreAt 64 with regs }
    let ht : AMap Nat := [(rHt 3 + 4, spSync <<< 16), (rHt 3 + 8, 512), (rHt 3 + 12, 1)]
    ∀ x ∈ ([([], false, true), ((0x2000, 1 <<< 6 + 3 <<< 16) :: ht, true, true), ([(0x2000, 1 <<< 6 + 3 <<< 16)], true, false)] :
        List (AMap Nat × Bool × Bool)),
      let s := marked x.1
      let d := (s.core 0).pdesc (s.core 0).pnl.index
      s.issues 0 = true ∧ (s.core 0).atIssue.mark = true ∧ ((s.slotsRun 0).core 0).is.stopped = false ∧
        pdPost d = x.2.1 ∧ (x.2.1 = true → (s.core 0).panelHandle (pdPostH d) true = x.2.2) := by decide +kernel


/-! ### Witnesses: the control port -/

/-- A frame without tag, arguments or payload. -/
def frm : Frame :=
  { first := false, last := false, auth := false, rsv := false, tag := 0, arg0 := 0, arg1 := 0, counter := 0,
    payload := [], crcOk := true, tagOk := true, image := ⟨true, true, true, true, []⟩, ecc := [] }

/-- A frame that each command allows, and the state that it is legal in. -/
def allowed : List (Nat × Frame × Nat) :=
  [(0x01, frm, stIdle), (0x02, { frm with payload := List.replicate 32 0#8 }, stIdle), (0x03, { frm with arg1 := 4 }, stIdle),
    (0x04, frm, stIdle), (0x05, { frm with first := true, last := true }, stIdle), (0x07, frm, stRunning),
    (0x08, frm, stRunning), (0x09, frm, stBooting), (0x0A, { frm with arg1 := 10 }, stIdle), (0x0B, frm, stIdle),
    (0x0C, frm, stIdle), (0x0D, frm, stIdle), (0x0E, { frm with arg1 := 1 }, stIdle)]

/-- The frame on a link of three lanes; with a bad CRC; with a tag outside a session; behind a waiting LOAD, and behind 32;
a LOAD during a march; a READ of a scratchpad; malformed; with a reserved CMD, the first and the last ones. -/
theorem witness_control_port_checks :
    ({ dev stIdle with ctl := { Ctl.init with st := stIdle, lanes := 7 } } : State).ctl.lanes ≠ 15 ∧
    ((dev stIdle).clocked = true ∧ (dev stIdle).ctl.lanes = 15 ∧ ({ frm with crcOk := false } : Frame).crcOk = false) ∧
    (∀ row ∈ frameRows, (dev stIdle).hears { frm with auth := true } = true ∧
      (dev stIdle).sessionOk row.2 { frm with auth := true } = false) ∧
    (∀ row ∈ frameRows,
      let s : State := { dev stIdle with ctl := { (dev stIdle).ctl with q := [(0x05, frm)] } }
      s.hears frm = true ∧ s.sessionOk row.2 frm = true ∧ s.ctl.q ≠ [] ∧ s.ctl.q.length < 32) ∧
    (let s : State := { dev stIdle with ctl := { (dev stIdle).ctl with q := List.replicate 32 (0x05, frm) } }
     ¬s.ctl.q.length < 32) ∧
    (let s : State := { dev stIdle with sand := { Sand.init with march := 1 } }
     s.hears frm = true ∧ s.sessionOk 0x05 frm = true ∧ s.ctl.q = [] ∧ (s.asks 0x05 frm).stillHeld 0x05 = true) ∧
    (let f := { frm with arg0 := gaMake 0 spSp 0, arg1 := 64 }
     (dev stIdle).portIdle = true ∧ ((dev stIdle).asks 0x03 f).stillHeld 0x03 = false ∧
       (((dev stIdle).asks 0x03 f).beginAccess 0x03 f).isSome = true) ∧
    (∀ row ∈ frameRows, let f := { frm with rsv := true }
      (dev stIdle).hears f = true ∧ (dev stIdle).sessionOk row.2 f = true ∧ (dev stIdle).portIdle = true ∧
        ((dev stIdle).asks row.2 f).stillHeld row.2 = false ∧ ((dev stIdle).legal row.2 f.first && (dev stIdle).formed row.2 f) = false) ∧
    ∀ cmd ∈ [0, 0x0F, 0xFF], (dev stIdle).hears frm = true ∧ (dev stIdle).sessionOk (cmd % 256) frm = true ∧
      (dev stIdle).portIdle = true ∧ (cmd % 256 = 0 ∨ 0x0E < cmd % 256) := by decide +kernel

/-- Every command but START and LOAD is served in some state. -/
theorem witness_commands_served : ∀ x ∈ allowed, (dev x.2.2).takes x.1 x.2.1 = true := by decide +kernel

theorem witness_control_queries :
    (dev stIdle).takes 0x01 frm = true ∧ (dev stBooting).takes 0x09 frm = true ∧
    (dev stIdle).takes 0x0D { frm with arg0 := 0x3FFFFC, arg1 := 4 } = true ∧
    (dev stIdle).takes 0x0D { frm with arg0 := 0x400000, arg1 := 4 } = true ∧
    (dev stIdle).takes 0x02 { frm with payload := List.replicate 32 0#8 } = true ∧ (dev stIdle).sec.idk = true := by
  decide +kernel

/-- Reads of each space, at its last byte where it has one, and one past the end of HBM and of the scratchpads. -/
theorem witness_control_read :
    let s := dev stIdle
    (∀ x ∈ ([(gaMake 0 spHbm 0x6C00000000, 4, 1), (gaMake 0 spSp 0x70000000, 4, 1), (gaMake 0 6 0, 4, 2),
        (gaMake 1 spSync 0, 4, 1), (gaMake 0 spMmio 2, 4, 5)] : List (Nat × Nat × Nat)),
      s.takes 0x03 { frm with arg0 := x.1, arg1 := x.2.1 } = true ∧ (s.spaceFault x.1 x.2.1).isSome = true) ∧
    (∀ x ∈ ([(spSync, 0, 4), (spRec, 0, 4), (spMmio, 0, 4), (spHbm, 0x6BFFFFFE00, 512)] :
        List (Nat × Nat × Nat)),
      let a := gaMake 0 x.1 x.2.1
      s.takes 0x03 { frm with arg0 := a, arg1 := x.2.2 } = true ∧ s.spaceFault a x.2.2 = none ∧ gaSpace a = x.1 ∧
        gaOff a = x.2.1) ∧
    ((s.counted frm).readRegs 0 4).isSome = true ∧
    (let f := { frm with arg0 := gaMake 0 spSp 0x6FFFFFC0, arg1 := 64 }
     s.hears f = true ∧ s.sessionOk 0x03 f = true ∧ s.portIdle = true ∧ s.legal 0x03 f.first = true ∧
       s.formed 0x03 f = true ∧ gaSpace f.arg0 = spSp ∧ s.spaceFault f.arg0 f.arg1 = none) ∧
    (let r : SpRead := ⟨1791 <<< 20 + 0xFFFC4, 60, [], none⟩
     let t : State := { s with ctl := { s.ctl with sp := some r } }
     t.portRowOf 1791 = some (r, 16383) ∧ (t.core 1791).portTaken false 16383 = false) := by decide +kernel

theorem witness_control_write :
    let b4 := List.replicate 4 1#8
    (∀ st ∈ [stIdle, stRunning], ∀ x ∈ ([(spSync, 4), (spSp, 0x6FFFFFFC), (spHbm, 0x6BFFFFFFFC)] : List (Nat × Nat)),
      let a := gaMake 0 x.1 x.2
      let s := dev st
      s.takes 0x04 { frm with arg0 := a, payload := b4 } = true ∧ s.spaceFault a b4.length = none ∧ b4 ≠ [] ∧
        gaSpace a = x.1 ∧ gaOff a % 512 + b4.length ≤ 512 ∧ gaOff a % 64 + b4.length ≤ 64 ∧
        s.writable = (st == stIdle)) ∧ (dev stIdle).stackOut (gaMake 0 spHbm 0x6BFFFFFFFC) = false := by decide +kernel

/-- A first LOAD frame without bytes, or the only one of an image that writes one semaphore. -/
def loadFrame (last : Bool) : Frame :=
  { frm with first := true, last,
             payload := if last then toBytes 16 (gaMake 0 spSync 0 + 4 <<< 64) ++ toBytes 16 5 else [] }

/-- An enrolled owner whose record asks for signed images (POLICY bit 0). -/
def asking : State := { dev stIdle with sec := { Sec.init with owner := some (1#1088 <<< 512) } }

theorem witness_control_load :
    (∀ last ∈ [false, true],
      let s := dev stIdle
      let f := loadFrame last
      let u := (s.counted f).loadBegin (newImage f.payload)
      let r := writeChunks (f.payload.length / 16 + 1) u f.payload f.image
      s.takes 0x05 f = true ∧ f.first = true ∧ f.last = last ∧ hasMagic f.payload = false ∧ s.sec.idk = true ∧
        s.sec.dtk = true ∧ s.sec.reqSigned = false ∧ r.2.2 = false ∧ r.2.1 = []) ∧
    asking.takes 0x05 (loadFrame true) = true ∧ asking.sec.reqSigned = true := by decide +kernel

/-- A loaded job whose cores all have a panel table of one timed panel, and one whose tables are empty. -/
def loaded (regs : AMap Nat) : State :=
  let s := dev stLoaded
  { s with dflt := { Core.init with regs }, ctl := { s.ctl with img := 2 } }

/-- With no core listed, one core stands for all. -/
theorem panelFault_same (s : State) (h : s.cores = []) (hk : s.dflt.tableFault = none) : s.panelFault = none := by
  simp [State.panelFault, State.core, h, aget, hk]

theorem startFault_of (s : State) (h : s.panelFault = none) (hr : routeFault s.routes [] = none)
    (hf : s.dreg 0x400000 = 0) (he : s.encOn = false) : s.startFault = none := by
  simp [State.startFault, h, hr, hf, he, bit]

theorem witness_control_start :
    ((loaded [(0x2000, 1)]).takes 0x06 frm = true ∧ (loaded [(0x2000, 1)]).startFault = none) ∧
    ((loaded []).takes 0x06 frm = true ∧ (loaded []).startFault = some (1, 0, 0)) :=
  ⟨⟨by decide +kernel, startFault_of _ (panelFault_same _ rfl (by decide +kernel)) (by decide +kernel) (by decide +kernel)
    (by decide +kernel)⟩, by decide +kernel⟩

/-- A device that booted with an environment, as RESET needs one. -/
def bootEnv : BootEnv :=
  { railsOk := true, primerA := ⟨true, 1, 0⟩, primerB := ⟨true, 1, 0⟩, fwA := ⟨true, 1, 0⟩, fwB := ⟨true, 1, 0⟩,
    factoryOut := [], factoryRows := [], fusePatch := [], records := [], torn := [], noSpare := [], bist := [], bistRows := [], hubUe := none, plumbFail := [], hbmFail := [],
    ddr := [], manifest := ⟨true, 0, 0, 0, 0, [], [], 0⟩, ms := 0 }

theorem witness_control_settings :
    (∀ x ∈ [(0x07, frm), (0x08, frm)], (dev stRunning).takes x.1 x.2 = true) ∧
    (∀ x ∈ [(0x0A, { frm with arg1 := 0 }), (0x0A, { frm with arg1 := 10 }), (0x0C, frm), (0x0E, frm),
        (0x0E, { frm with arg1 := 1 })], (dev stIdle).takes x.1 x.2 = true) ∧
    let s : State := { dev stIdle with pat := { Patch.init with env := some bootEnv } }
    s.takes 0x0B frm = true ∧ s.pat.env.isSome = true := by decide +kernel


/-! ### Witnesses: registers, keys, weights, marches -/

theorem witness_core_clears : (dev stIdle).portOpen = true ∧ (0 : Nat) < nCores ∧ 1791 < nCores := by decide +kernel

theorem witness_device_clears :
    (dev stIdle).portOpen = true ∧ (0 : Nat) < 13 ∧ 12 < 13 ∧ 1791 < nCores ∧ bit (256#32).toNat 8 = true ∧
      bit (0#32).toNat 8 = false := by decide +kernel

/-- A write while the device boots, one that is not aligned, one past the core windows, and writes of an S register, of
a semaphore and of SEM_WAIT_LIMIT, in IDLE and RUNNING, at core 0 and at the last core. -/
theorem witness_register_writes :
    (dev stBooting).portOpen = false ∧ (dev stIdle).portOpen = true ∧ (2 : Nat) % 4 ≠ 0 ∧
    (0x7000000 : Nat) % 4 = 0 ∧ (dev stIdle).mmioWord 0x7000000 = none ∧
    (dev stIdle).writable = true ∧ (dev stRunning).portOpen = true ∧ (dev stRunning).writable = false ∧
    1791 < nCores ∧ 0x10000 * 1791 + 0x100 + 4 * 31 = 0x6FF017C ∧ 0x10000 * 1791 + 0x7000 + 4 * 127 = 0x6FF71FC ∧
    stRunning ≠ stFaulted ∧ (dev stFaulted).ctl.st = stFaulted := by decide +kernel

/-- A device with an owner of VERSION 1. -/
def owned : State := { dev stIdle with sec := { Sec.init with owner := some (1#1088 <<< 544) } }

theorem witness_session_and_owner :
    (dev stIdle).portOpen = true ∧ (dev stIdle).sec.dtk = true ∧ (dev stIdle).writable = true ∧
    (dev stIdle).sec.owner = none ∧ owned.portOpen = true ∧ owned.writable = true ∧
    owned.sec.owner = some (1#1088 <<< 544) ∧
    bits (1#1088 <<< 544).toNat 575 544 < bits (2#1088 <<< 544).toNat 575 544 ∧
    bits (1#1088 <<< 544).toNat 575 544 ≤ bits (1#1088 <<< 544).toNat 575 544 ∧
    (dev stRunning).portOpen = true ∧ (dev stRunning).writable = false := by decide +kernel

/-- A challenge that is 59.999999999 s old, and one that is 60 s old. -/
theorem witness_zeroisation :
    let asked (age : Nat) : State :=
      { dev stIdle with sec := { Sec.init with chalLive := true, chalAt := 5 }, scr := { Screed.init with ns := 5 + age } }
    ((asked 59999999999).clocked = true ∧ (asked 59999999999).sec.chalLive = true ∧
      (asked 59999999999).scr.ns < (asked 59999999999).sec.chalAt + 60000000000 ∧ (asked 59999999999).ctl.st = stIdle) ∧
    ((asked 60000000000).clocked = true ∧ (asked 60000000000).sec.chalLive = true ∧
      (asked 60000000000).sec.chalAt + 60000000000 ≤ (asked 60000000000).scr.ns) ∧ (3 : Nat) < 4 := by decide +kernel

/-- WD_ENTRY 255 with a flip pending at step 7, a core at that step, and at the step before it. -/
theorem witness_weights :
    let s (step : Nat) : State :=
      { dev stRunning with
        dregs := [(rWd 255 + 20, 512 + 7 <<< 16)]
        dflt := { Core.init with pnl := { Panel.init with phase := 1, step } } }
    (dev stIdle).portOpen = true ∧ wdPend ((dev stIdle).wd 0) = false ∧ wdPend ((s 7).wd 255) = true ∧
    (s 7).portOpen = true ∧ (s 7).stepMin = some 7 ∧ wdFlipStep ((s 7).wd 255) ≤ 7 ∧ (s 6).stepMin = some 6 ∧
    6 < wdFlipStep ((s 6).wd 255) ∧ wdPend ((s 6).wd 255) = true := by decide +kernel

/-- A manifest of one entry: sequence 0, ACTIVE, one new token, a context whose entry holds weights of kind 1; and a
manifest that fails the first check. -/
theorem witness_sequences :
    let s : State := { dev stIdle with dregs := [(rWd 0 + 20, 1 <<< 10), (rManifest 0 0, 1 <<< 14), (rSeqEntry 0, 1 <<< 21)] }
    s.portOpen = true ∧ s.expand = none ∧ 1 ≤ bits (2#32).toNat 11 1 ∧ bits (2#32).toNat 11 1 ≤ 1024 ∧
    s.manFault 0 1 0 [] 0 = none ∧ (dev stIdle).manFault 0 1 0 [] 0 = some (0, 1) ∧
    ({ s with expand := some (0, 1) } : State).expand = some (0, 1) := by decide +kernel

theorem witness_memory_march :
    (dev stIdle).portOpen = true ∧ (dev stIdle).ctl.st = stIdle ∧ (dev stRunning).portOpen = true ∧
    (dev stRunning).ctl.st ≠ stIdle ∧
    let s : State := { dev stIdle with sand := { Sand.init with march := 7 } }
    s.sand.march ≠ 0 ∧ s.ctl.q = [] ∧ bit s.sand.march 0 = true ∧ bit s.sand.march 1 = true ∧
      bit s.sand.march 2 = true := by decide +kernel


/-! ### Witnesses: panels and engines of a core -/

/-- Core 0 waits for a timed panel with planned start 0; it waits for a later one; it owes a post to its own semaphore
3; it owes one behind a store. -/
theorem witness_panel_events :
    let waiting (start : Nat) : State :=
      devCore stRunning { Core.init with regs := [(0x2000, 1), (0x2004, start)], pnl := { Panel.init with phase := 1 } }
    let owing (inflight : List Due) : State :=
      devCore stRunning { Core.init with pnl := { Panel.init with posts := [⟨gaMake 0 spSync 12, 5⟩] }, inflight }
    let store : Due := ⟨.row 4 0 [] false, true, 9, 9, 4, 0⟩
    ((waiting 0).ctl.st = stRunning ∧ (waiting 0).panelReady 0 = true ∧ (waiting 1).panelReady 0 = false) ∧
    (((owing []).core 0).pnl.posts = ⟨gaMake 0 spSync 12, 5⟩ :: [] ∧ (owing []).postReady 0 ⟨gaMake 0 spSync 12, 5⟩ = true ∧
      gaCoord (gaMake 0 spSync 12) = (owing []).fab.coord ∧ (semPlace (gaOff (gaMake 0 spSync 12))).isSome = true) ∧
    (owing [store]).postReady 0 ⟨gaMake 0 spSync 12, 5⟩ = false ∧
    (let s : State := { dev stRunning with ctl := { Ctl.init with st := stRunning, halt := true } }
     s.ctl.st = stRunning ∧ s.ctl.halt = true ∧ s.haltDone = false ∧
     let t : State := { s with dflt := { Core.init with pnl := { Panel.init with phase := 4 } } }
     t.haltDone = true) := by decide +kernel

/-- An operation of the local-memory queue. -/
def lmOp (lop : Nat) (post : Bool) (visAt : Option Nat) : LmOp :=
  { lop, row := 0, src := 1, len := 1, dstr := 2, sstr := 0, sem := 3, post, chk := false, fv2 := false, serial := 0,
    issued := 0, started := lop == 3, rd := 0, wr := 0, buf := [], visAt, posted := false, heldSince := none }

theorem witness_core_engines :
    (let k := { Core.init with mx := { MatUnit.init with retq := [⟨3, 2⟩] } }
     k.mx.retq = ⟨3, 2⟩ :: [] ∧ k.mx.moving = none ∧ (k.bankNo 3).vis ≤ k.is.clk ∧ k.mx.freeAt ≤ k.is.clk) ∧
    (∀ n ∈ [0, 1],
      let k := { Core.init with mx := { MatUnit.init with moving := some (⟨3, 2⟩, n) } }
      k.mx.moving = some (⟨3, 2⟩, n) ∧ (n ≤ k.is.clk ∨ k.is.clk < n)) ∧
    (∀ lop ∈ [1, 2],
      let o := lmOp lop false none
      let k := { Core.init with lm := [o] }
      k.lmCur = some o ∧ o.started = false ∧ k.lmFree ≤ (devCore stRunning k).cyc 0 ∧ o.buf = [] ∧ o.lop = lop ∧
        k.is.granted = true ∧ k.portTaken true (o.row + o.wr * o.dstr) = false) ∧
    (∀ st ∈ [segFilling, 2],
      let o := lmOp 3 false none
      let k := { Core.init with lm := [o], sp := { Scratch.init with seg := [(0, st)] } }
      k.lmCur = some o ∧ o.lop = 3 ∧ o.started = true ∧ k.segState 0 = st ∧
        (k.lm.any fun x => match x.visAt with | some t => decide (0 < t) | none => false) = false) ∧
    (∀ o ∈ [lmOp 1 false (some 0), lmOp 1 true (some 0), { lmOp 1 true (some 0) with posted := true }],
      let k := { Core.init with lm := [o] }
      k.lm = o :: [] ∧ o.visAt = some 0 ∧ (devCore stRunning k).postWaits 0 o.serial = false) ∧
    (Core.init.scrubInterval ≠ 0 ∧ Core.init.sp.scrubLeft = 0 ∧ (dev stIdle).ctl.st ≠ stOff ∧ (dev stOff).ctl.st = stOff) ∧
    (∀ ports ∈ [[], [(false, 0, 16, 5)]],
      let k := { Core.init with sp := { Scratch.init with scrubReq := true }, is := { Issue.init with ports } }
      k.sp.scrubReq = true ∧ k.portTaken false k.sp.scrubPos = !ports.isEmpty) := by decide +kernel

/-- Core 1791 with engine 3 RUNNING at instruction pc, which holds w; handle 1 is 1 MiB of HBM, handle 2 its scratchpad,
handle 3 its semaphores; registers 0 to 2 are bound to them. -/
def streaming (pc w : Nat) : State :=
  let ht (h space off size : Nat) : AMap Nat :=
    [(rHt h, off % 2 ^ 32), (rHt h + 4, space <<< 16 + off >>> 32), (rHt h + 8, size), (rHt h + 12, 1)]
  let own := 1791 * 2 ^ 20
  { dev stRunning with
    cores := [(1791, { Core.init with
      regs := ht 1 spHbm 0 1048576 ++ ht 2 spSp own 1048576 ++ ht 3 spSync (512 * 1791) 512 ++
        [(rSeProg 3 pc, w % 2 ^ 32), (rSeProg 3 pc + 4, w >>> 32)]
      se := [(3, { Engine.init with
        run := 1, pc, ar := [(0, gaMake 0 spHbm 0), (1, gaMake 0 spSp own), (2, gaMake 0 spSync (512 * 1791))],
        bind := [(0, 1), (1, 2), (2, 3)] })] })] }

/-- Each instruction at index 0 and at index 31; SWRAP of a bound and of an unbound register, with an offset that it
takes and with one that it does not; SNEXT with a counter of 2. -/
theorem witness_stream_registers :
    (∀ row ∈ streamRows, ∀ pc ∈ [0, 31],
      ((streaming pc row.2).core 1791).seAt 3 row.2 ((streaming pc row.2).cyc 1791) = true) ∧
    ((streaming 0 0x3F).core 1791).seAt 3 0x00 0 = false ∧
    (let s := streaming 0 (0x04 + 512 <<< 20)
     let w := (s.core 1791).sInstr 3 0
     (s.core 1791).seAt 3 0x04 (s.cyc 1791) = true ∧ ((s.core 1791).engine 3).handle (siD w) = some 1 ∧ 0 < siImm w ∧
       siImm w % 512 = 0) ∧
    (let s := streaming 0 (0x04 + 7 <<< 6 + 512 <<< 20)
     (s.core 1791).seAt 3 0x04 (s.cyc 1791) = true ∧
       ((s.core 1791).engine 3).handle (siD ((s.core 1791).sInstr 3 0)) = none) ∧
    (let s := streaming 0 (0x04 + 511 <<< 20)
     (s.core 1791).seAt 3 0x04 (s.cyc 1791) = true ∧ siImm ((s.core 1791).sInstr 3 0) % 512 ≠ 0) ∧
    (∀ n ∈ [1, 2],
      let s := streaming 0 0x11
      let k := s.core 1791
      let k := k.setEngine 3 { k.engine 3 with lp := [(0, n)] }
      k.seAt 3 0x11 0 = true ∧ (k.engine 3).lpc (siD (k.sInstr 3 0)) = n) := by decide +kernel

/-- The program word of a read of one line from register 0 to register 1. -/
def readLineWord : Nat := 0x08 + 1 <<< 9

theorem witness_stream_transfers :
    (∀ op ∈ [0x08, 0x09, 0x0A], ((streaming 31 op).core 1791).seAt 3 op 0 = true) ∧
    (let s := streaming 0 readLineWord
     let k := s.core 1791
     let at0 (g : Engine) : Core := k.setEngine 3 { g with xfer := some ⟨0, 0, [], none⟩ }
     let step (k : Core) : LineStep := lineStep k 0 1791 3 0 (k.engine 3) ⟨0, 0, [], none⟩
     let rated := at0 { k.engine 3 with rate := 1 }
     let unbound := at0 { k.engine 3 with bind := [] }
     ((at0 (k.engine 3)).engine 3).run = 1 ∧ ((at0 (k.engine 3)).engine 3).xfer = some ⟨0, 0, [], none⟩ ∧
       (∃ src dst, step (at0 (k.engine 3)) = .go src dst) ∧ (∃ r, step rated = .hold r) ∧
       ∃ r b, step unbound = .bad r b) ∧
    (let k := (streaming 0 (0x0A + 1 <<< 9 + 1 <<< 12)).core 1791
     let g := { k.engine 3 with xfer := some ⟨0, 0, [], none⟩, wordRows := [(0, 0#512, true)] }
     g.run = 1 ∧ lineStep (k.setEngine 3 g) 0 1791 3 0 g ⟨0, 0, [], none⟩ = .poison 0) := by
  refine ⟨by decide +kernel, ⟨by decide +kernel, by decide +kernel,
    ⟨gaMake 0 spHbm 0, gaMake 0 spSp (1791 * 2 ^ 20), ?_⟩, ⟨rSeRegHold 3, ?_⟩, ⟨5, 0, ?_⟩⟩, ?_⟩ <;> decide +kernel

/-- SWAIT and SPOST on register 2, whose semaphore is the core's own, and on register 0, which is bound to HBM; SPOST
with a line under way; a held SPOST; a program read that is done. -/
theorem witness_stream_waits :
    (∀ w ∈ [0x18 + 2 <<< 6 + 1 <<< 11, 0x19 + 2 <<< 6],
      let s := streaming 30 w
      let k := s.core 1791
      let a := (k.engine 3).arg (siD w)
      k.seAt 3 (w % 64) (s.cyc 1791) = true ∧ seAccess k s.fab.coord 1791 (k.engine 3) (siD w) a 4 true 0 = none ∧
        gaCoord a = s.fab.coord ∧ (semPlace (gaOff a)).isSome = true ∧ k.tags 3 = 0 ∧ (k.engine 3).pc < 31) ∧
    (let s := streaming 0 0x18
     let k := s.core 1791
     k.seAt 3 0x18 (s.cyc 1791) = true ∧
       seAccess k s.fab.coord 1791 (k.engine 3) 0 ((k.engine 3).arg 0) 4 false 0 ≠ none) ∧
    (let k := (streaming 0 0x19).core 1791
     let l : Line := ⟨0, 3, 0, false, 0, 0, [], 0, 0, 0, false, 0, 0, false, none, 0⟩
     let k := { k with lines := [l] }
     k.seAt 3 0x19 0 = true ∧ k.tags 3 ≠ 0) ∧
    (let k := (streaming 0 (0x19 + 2 <<< 6)).core 1791
     let k := k.setEngine 3 { k.engine 3 with fence := true }
     (k.engine 3).run = 1 ∧ (k.engine 3).fence = true ∧ k.tags 3 = 0) ∧
    (let r : Reader := ⟨4, 3, 0, 4, false, List.replicate 4 (0#512, false), 0, none⟩
     takeFirst (fun r : Reader => r.kind == 4 && r.eng == 3) [r] = some (r, []) ∧ r.n ≤ r.got.length ∧
       r.lastAt + 7 ≤ 7 ∧ ∀ j, j < 4 → (r.got.getD j (0#512, false)).2 = false) := by decide +kernel


/-! ### Witnesses: lines, refresh, messages, semaphores, waits -/

/-- A line under tag 15 of engine 3. -/
def lineAt (stage landed : Nat) (write : Bool) (mem : Nat) : Line :=
  ⟨15, 3, 0, write, mem, 16376, List.replicate 8 (1#512, false), stage, landed, 0, false, 0, 0, false, none, 0⟩

theorem witness_line_landing :
    (∀ n ∈ [0, 7],
      let l := lineAt 2 n false 0
      let k := { Core.init with lines := [l] }
      k.lineOf 15 = some l ∧ k.landing l.eng = some l ∧ l.nextRow = some (1#512, false) ∧ k.is.granted = true ∧
        k.is.noBeat = false ∧ l.eng ∉ k.is.landers ∧ k.landWins l.eng (l.row + l.landed) = true) ∧
    (let x : ExtRow := ⟨16383, [], false, .none, 0, 0⟩
     let k := { Core.init with ext := [x] }
     k.ext = x :: [] ∧ k.is.granted = true ∧ k.is.noBeat = false ∧ 4 ∉ k.is.landers ∧
       k.landWins 4 x.row = true) ∧
    (∀ l ∈ [lineAt 2 0 true 0, lineAt 3 8 false 0],
      ({ Core.init with lines := [l] } : Core).lineOf 15 = some l ∧
        (l.write = true ∧ l.stage = 2 ∨ l.write = false ∧ l.stage = 3 ∧ l.visAt ≤ 0)) ∧
    (let l := { lineAt 0 0 false 0 with bad := true }
     ({ Core.init with lines := [l] } : Core).lineOf 15 = some l ∧ l.bad = true) ∧
    (Core.init.lineOf 15 = none ∧ (lineAt 0 0 false 0).bad = false) := by decide +kernel

/-- Requests of HBM, of a DDR5 module and of core 1's scratchpad; HBM past its end. -/
theorem witness_memory_requests :
    (∀ x ∈ [(spHbm, false), (spHbm, true), (spSp, false), (spSp, true), (spDdr, false), (spDdr, true)],
      let a := gaMake 0 x.1 (if x.1 = spSp then 2 ^ 20 else 0)
      let l := lineAt 0 0 x.2 a
      let s : State :=
        { devCore stRunning { Core.init with lines := [l] } with
          dregs := [(0x12000, 1 <<< 16 + 6 <<< 20), (0x12020, 1)]
          sec := { Sec.init with ddrKeys := true } }
      let h : Held := ⟨(0, 15), a, if l.write then some (bytesOfRows l.data, l.data.any (·.2)) else none, .clean⟩
      (s.core 0).lineOf 15 = some l ∧ l.stage = 0 ∧ l.bad = false ∧ gaCoord l.mem = s.fab.coord ∧ s.granted 0 l = true ∧
        s.mustWait s.mem.held h = false ∧ s.mem.merges = [] ∧ s.memOk a 512 = true ∧ l.write = x.2 ∧ gaSpace a = x.1 ∧
        l.data.length = 8 ∧ s.stackOut a = false ∧ s.sec.ddrKeys = true) ∧
    (dev stRunning).memOk (gaMake 0 spHbm 0x6C00000000) 512 = false := by decide +kernel

/-- A crossing that holds the request; a bank in its refresh window; an open merge entry; entries whose line is not read yet,
and read. -/
theorem witness_memory_requests_waiting :
    (let l := lineAt 0 0 false (gaMake 0 spHbm 0)
     let k := { Core.init with lines := [l] }
     let s : State := devCore stRunning k
     let pressed : State := devCore stRunning { k with is := { Issue.init with pressed := true } }
     let shut : State := { s with mem := { Tiers.init with hbmWin := [(0, 1)] } }
     let open0 : State := { s with mem := { Tiers.init with merges := [⟨0, 0, false, [], false, 0, [(1, 3, 0)], true, 0⟩] } }
     pressed.granted 0 l = false ∧
       (shut.granted 0 l = true ∧ shut.mustWait shut.mem.held ⟨(0, 15), l.mem, none, .clean⟩ = true) ∧
       (open0.granted 0 l = true ∧
         (open0.mem.merges.any fun m => m.line == open0.hbmLineOf l.mem && m.joinable open0.refCount) = true)) ∧
    (∀ got ∈ [false, true],
      let m : Merge := ⟨0, 0, got, [], false, 0, [(0, 15, 0)], true, 0⟩
      let j := lineAt 1 0 false (gaMake 0 spHbm 0)
      let s : State := { devCore stRunning { Core.init with lines := [j] } with mem := { Tiers.init with merges := [m] } }
      s.mem.merges[0]? = some m ∧ m.got = got ∧ (0, 15, 0) ∈ m.joiners.drop m.served ∧ (s.core 0).lineOf 15 = some j ∧
        j.stage = 1 ∧ j.write = false) := by decide +kernel

theorem witness_refresh :
    let at0 (now : Nat) (regs : AMap Nat) (next : AMap (Bool × Nat)) : State :=
      { dev stRunning with
        scr := { Screed.init with now, running := true }, dregs := regs, mem := { Tiers.init with refNext := next } }
    (at0 3720 [] []).refCount % 3840 = 120 * (63 % 32) ∧
    ((at0 1920 [(0x10008, 2048)] []).refCount % 3840 = (1920 + 120 * (0 % 32)) % 3840 ∧
      bit ((at0 1920 [(0x10008, 2048)] []).dreg 0x10008) 11 = true) ∧
    ((at0 1 [] []).refCount % 3840 ≠ 120 * (0 % 32) ∧ bit ((at0 1 [] []).dreg 0x10008) 0 = false) ∧
    (afind (at0 3840 [] [(11, (true, 3839))]).mem.refNext 11 = some (true, 3839) ∧
      (at0 3840 [] [(11, (true, 3839))]).refCount % 3840 = 0 ∧ 3839 < (at0 3840 [] [(11, (true, 3839))]).refCount) ∧
    (afind (at0 3840 [] [(11, (true, 3840))]).mem.refNext 11 = some (true, 3840) ∧
      (at0 3840 [] [(11, (true, 3840))]).refCount ≤ 3840) ∧
    ((at0 1860 [] []).refCount % 1920 = (480 * 3 + 60 * 7) % 1920 ∧
      (at0 1861 [] []).refCount % 1920 ≠ (480 * 3 + 60 * 7) % 1920) := by decide +kernel

/-- What is on the lath for queue, route and mailbox, at the ends of their ranges. -/
theorem witness_lath_arrivals :
    let on (m : LathMsg) : State := { dev stRunning with lath := [m] }
    let off := dev stRunning
    (on (.msg 0 1791 7 [1#32] 0)).offLath (LathMsg.forQueue 1791 7) = some (.msg 0 1791 7 [1#32] 0, off) ∧
    (on (.credit 1791 7)).offLath (LathMsg.creditFor 1791 7) = some (.credit 1791 7, off) ∧
    (on (.close 1791 7)).offLath (LathMsg.closeFor 1791 7) = some (.close 1791 7, off) ∧
    (on (.mbCredit 1791 7 32)).offLath (LathMsg.bytesFor 1791 7) = some (.mbCredit 1791 7 32, off) ∧
    (let x : ExtWait := ⟨.record 3 32 none none, 0⟩
     ({ Core.init with extWait := [x] } : Core).landedRecord 3 0 = some (x, [])) ∧
    Core.init.landedRecord 3 0 = none ∧
    (on (.record 0 1791 3 [] 0)).offLath (LathMsg.forMbx 1791 3) = some (.record 0 1791 3 [] 0, off) := by decide +kernel

/-- Two updates at the hub's home; a wait that is satisfied, one that is not, one past its deadline and an update alone;
a full store; fenced updates of a core that may leave and that must wait. -/
theorem witness_semaphore_homes :
    let upd (n : Int) : SemMsg := ⟨0, 8, none, 0x120000, 0, n, 0, 0⟩
    let wait (kind : Nat) (n : Int) (dl : Nat) : SemMsg := ⟨0, 0, none, 0x120000, kind, n, dl, 0⟩
    let home (ms : List SemMsg) (now : Nat) : State :=
      { dev stRunning with sem := [(0x120000, 1#32)], semIn := [(1828, ms)], scr := { Screed.init with now } }
    (let s := home [upd 3, upd (-5)] 0
     aget [] s.semLate 1828 ++ aget [] s.semIn 1828 = upd 3 :: upd (-5) :: [] ∧
      aget [] (home [upd 3, upd (-5)] 0).semPark 1828 = [] ∧
      ∀ x ∈ [upd 3, upd (-5)], x.kind = 0 ∧ x.rem = none ∧ x.off = 0x120000) ∧
    (∀ m ∈ [upd 3, wait 1 1 0, wait 2 1 0, wait 1 2 0], aget [] (home [m] 0).semLate 1828 ++ aget [] (home [m] 0).semIn 1828 = [m] ∧ m.kind < 3 ∧ m.rem = none ∧
      ¬m.deadline < (home [m] 0).scr.now ∧ (m.amount ≤ ((home [m] 0).semVal m.off).toInt ↔ m ≠ upd 3 ∧ m ≠ wait 1 2 0)) ∧
    (wait 1 1 0).deadline < (home [wait 1 1 0] 1).scr.now ∧
    (let s : State := { home [wait 1 2 0] 0 with semPark := [(1828, List.replicate (waitStore 1828) (wait 1 2 0))] }
     aget [] s.semLate 1828 ++ aget [] s.semIn 1828 = [wait 1 2 0] ∧ waitStore 1828 ≤ (aget [] s.semPark 1828).length) ∧
    (∀ x ∈ [(4, false), (5, true)],
      let op : SyncOp := ⟨0, gaMake 0 spSync 0, 1, true, 5⟩
      let s := devCore stRunning
        { Core.init with sync := [op], inflight := [⟨.row 4 0 [] false, true, 9, 9, 5 - b2n (x.1 == 4), 0⟩] }
      (s.core 0).sync = op :: [] ∧ (s.unapplied 0 op.serial || (s.core 0).unwritten op.serial) = !x.2) ∧
    gaCoord (gaMake 0 spSync 0) = (dev stRunning).fab.coord ∧ (semPlace (gaOff (gaMake 0 spSync 0))).isSome = true := by
  decide +kernel

theorem witness_wait_answers :
    let w (stage resend dl addr : Nat) : Wait := ⟨addr, 1, false, 0, dl, stage, resend⟩
    let own := gaMake 0 spSync 0
    let waiting (w : Wait) (ans : List SemAns) (now : Nat) : State :=
      { devCore stRunning (Core.init.setWait 0 (some w)) with semAns := ans, scr := { Screed.init with now } }
    (∀ party ∈ [0, 1, 2, 3, 6], ∀ ans ∈ [0, 2],
      let k := Core.init.setWait party (some (w 0 0 0 own))
      k.waitOf party = some (w 0 0 0 own) ∧
        ({ dev stRunning with semAns := [⟨0, 0, party, ans⟩] } : State).nextAns 0 party false = some (⟨0, 0, party, ans⟩, [])) ∧
    (((waiting (w 2 64 0 own) [] 64).core 0).waitOf 0 = some (w 2 64 0 own) ∧
      (w 2 64 0 own).resendAt ≤ (waiting (w 2 64 0 own) [] 64).scr.now ∧
      (waiting (w 2 64 0 own) [] 63).scr.now < (w 2 64 0 own).resendAt) ∧
    (waiting (w 0 0 0 own) [⟨0, 0, 0, 1⟩] 0).nextAns 0 0 true = some (⟨0, 0, 0, 1⟩, []) ∧
    (let r := w 0 0 7 (gaMake 1 spSync 0)
     ((waiting r [] 100007).core 0).waitOf 0 = some r ∧ gaCoord r.addr ≠ (waiting r [] 100007).fab.coord ∧
       r.stage ≠ 1 ∧ r.deadline + 100000 ≤ (waiting r [] 100007).scr.now ∧
       (waiting r [] 100006).scr.now < r.deadline + 100000) ∧
    ∀ q ∈ [1, 2, 3, 4],
      let s (now : Nat) : State :=
        { devCore stRunning { Core.init with is := { Issue.init with holds := [(q, 1)] } } with
          scr := { Screed.init with now } }
      ((s 1000001).core 0).stn.active = false ∧ afind ((s 1000001).core 0).is.holds q = some 1 ∧
        (s 1000001).nextAns 0 0 true = none ∧
        1 + (s 1000001).waitLimit ≤ (s 1000001).scr.now ∧ (s 1000000).scr.now < 1 + (s 1000000).waitLimit := by
  decide +kernel

/-- A GEMM stencil of one product whose epilogue is one micro-op (KIND 1, EN 1, KBLK 1, H_A 2, VMOV with FSRC), and its
variants: with WAIT on handle 3, of a reserved kind, with CHAIN. -/
def descOf (extra : Nat) : Nat := 1 + 1 <<< 9 + 1 <<< 64 + 2 <<< 134 + 1 <<< 1024 + (0x0F + 1 <<< 50 + 1 <<< 64) <<< 1280 + extra

/-- Core 0 at the front of a descriptor. -/
def fronting (d : Nat) : State :=
  let k := (streaming 0 0).core 1791
  let words : AMap Nat := (upto 128).map fun j => (rStnDesc + 4 * j, bits d (32 * j + 31) (32 * j))
  let ht (h space off size : Nat) : AMap Nat := [(rHt h, off), (rHt h + 4, space <<< 16), (rHt h + 8, size), (rHt h + 12, 1)]
  devCore stRunning
    { k with se := [], regs := words ++ ht 2 spSp 0 1048576 ++ ht 3 spSync 0 512,
             stn := { Stencil.init with phase := 2, active := true }, pnl := { Panel.init with phase := 2 } }

theorem witness_sequencer :
    (let r : Reader := ⟨0, 0, 8, 8, true, List.replicate 8 (0#512, false), 0, none⟩
     let p := { r with got := List.replicate 7 (0#512, false) ++ [(0#512, true)] }
     r.ready 7 = true ∧ r.ready 6 = false ∧ r.poisoned = none ∧ p.ready 7 = true ∧ p.poisoned = some 15 ∧
       takeFirst (fun r : Reader => r.kind == 0 && r.ready 7) [r] = some (r, [])) ∧
    (∀ x ∈ [(0, true), (2, false)],
      let s := fronting (descOf x.1)
      let k := s.core 0
      s.ctl.st = stRunning ∧ k.frontDue (s.cyc 0) = true ∧ sdWait k.sdesc = false ∧
        (∀ j ∈ upto 7, 1 ≤ j → k.sPending (sdCreg k.sdesc j) = false) ∧
        (k.stencilViol s.fab.coord 0 k.sdesc (k.levels k.sdesc)).isNone = x.2) ∧
    (let s := fronting (descOf (1 <<< 15 + 3 <<< 24))
     let k := s.core 0
     let h := sdWaitH k.sdesc
     k.frontDue (s.cyc 0) = true ∧ sdWait k.sdesc = true ∧ k.stn.wait = none ∧ k.resolves h 0 4 false [spSync] = true ∧
       k.htAddr h % 4 = 0 ∧ gaCoord (k.htAddr h) = s.fab.coord ∧ (semPlace (gaOff (k.htAddr h))).isSome = true) ∧
    Core.init.frontDue 0 = false := by decide +kernel

/-- The state after a command; the state before it where it does not answer one. -/
def after (i : Instr) (s : State) : State := match exec i s with | .next t => t | _ => s

/-- The front of a GEMM before its first product, with effects under way. -/
def running (inflight : List Due) : State :=
  (after (.stencilFrontStart 0) (fronting (descOf 0))).modCore 0 fun k => { k with inflight }

/-- The first of 32 products may issue; it is held behind a weight load; the front has ended, and chains or not. -/
theorem witness_sequencer_issue :
    (∀ inflight ∈ [[], [(⟨.wcol 0 0#512 false, true, 7, 0, 0, 0⟩ : Due)]],
      let s := running inflight
      let k : Core := { s.core 0 with stn := (s.core 0).stn.retire (s.core 0).is.serial 3 }
      s.ctl.st = stRunning ∧ (s.core 0).mayIssue = true ∧ (s.core 0).stn.active = true ∧
        ((s.core 0).stn.front.map fun f => f.ops.length) = some 32 ∧ k.frontOp.isSome = inflight.isEmpty ∧
        k.streamInst = none ∧ (inflight ≠ [] → k.masksNow none = none) ∧
        (inflight = [] →
          ((s.setCore 0 k).tryBundle 0 (k.genBundle k.frontOp k.streamInst) k.bundleIndex true).2 = true)) ∧
    (let s := after (.stencilFrontStart 0) (fronting (descOf (1 <<< 14)))
     let gone := (s.core 0).stn.front.map fun f => { f with ops := [], more := false }
     let x : Stencil := { (s.core 0).stn with front := gone }
     x.active = true ∧ (s.core 0).is.stopped = false ∧ x.frontEnded = true ∧
       (x.front.map fun f => (sdChain f.d, f.lastOp)) = some (true, 0) ∧ 0 < ({ (s.core 0).is with clk := 1 } : Issue).clk) ∧
    (let x : StnDone := ⟨some (gaMake 0 spSync 0), 0, 5, 5⟩
     let k := { Core.init with stn := { Stencil.init with done := [x] } }
     let busy := { k with inflight := [⟨.row 1 0 [] false, true, 9, 9, 4, 0⟩] }
     x.visible k = true ∧ x.visible busy = false ∧ (devCore stRunning k).postReady 0 ⟨gaMake 0 spSync 0, 5⟩ = true) := by
  decide +kernel


/-! ### Witnesses: bays, clocks, sanding -/

/-- Two cores of bay 31, one of them frozen; reset; tokens of 2,730 that are all asked for. -/
theorem witness_bay_cycle :
    (let s : State := { dev stIdle with
       cores := [(1790, Core.init), (1791, { Core.init with is := { Issue.init with frozen := true } })] }
     s.ctl.st ≠ stOff ∧ keysRise s.cores = true ∧ (s.present 31).contains 1791 = true ∧ (s.core 1790).is.frozen = false ∧
       (s.core 1791).is.frozen = true) ∧
    State.reset.ctl.st = stOff ∧ (2730 : Nat) ≤ 2730 := by decide +kernel

theorem witness_clocks_and_governor :
    ((dev stIdle).ctl.st ≠ stOff ∧ (dev stIdle).floorOf 36 ≤ 1800 ∧ 1800 < (dev stIdle).target 36 ∧
      (dev stIdle).floorOf 36 = 1800) ∧
    (({ dev stIdle with regions := [(36, { Region.init with droop := true })] } : State).region 36).droop = true ∧
    (∀ us ∈ [[], [1791]],
      let s : State := { dev stRunning with bays := [(31, { Bay.init with pstep := some 3, unacked := us })] }
      (s.bay 31).pstep = some 3 ∧ (s.bay 31).unacked = us ∧ s.ctl.st = stRunning ∧ (s.region 31).droop = false) ∧
    (hotLimit { hot := [some 115], power := 0, vin := 480, tin := 30, tout := 40, flow := 100, latch := 255 } = true) ∧
    (∀ deg ∈ [0, 104],
      let x : Sensors := { hot := List.replicate 37 (some deg), power := 0, vin := 480, tin := 30, tout := 40, flow := 100,
                           latch := 255 }
      let s : State := { dev stIdle with regions := [(31, Region.init)] }
      s.ctl.st ≠ stOff ∧ s.regions ≠ [] ∧ s.ctl.st ≠ stRunning ∧ (s.bay 31).pstep = none ∧
        (∀ g ∈ upto 37, ∃ h ∈ upto 105, x.hot[g]? = some (some h)) ∧ x.hot[31]? = some (some deg) ∧
        (s.tempHi ≤ deg ∨ s.replThresh < (s.region 31).warn ∨ s.capWatts * 103 < x.power * 100 ↔ deg = 104)) := by decide +kernel

theorem witness_sanding :
    let win (start now : Nat) : State :=
      { devCore stRunning { Core.init with regs := [(0x2000, 1), (0x2004, start)],
                                           pnl := { Panel.init with phase := 1, window := true } } with
        scr := { Screed.init with now }, dregs := dregsInit }
    ((dev stIdle).sandActive = true ∧ Core.init.sandable = true ∧ Core.init.sand = none ∧ (dev stIdle).ctl.st = stIdle) ∧
    (((win 40500 0).core 0).pnl.window = true ∧ ((win 40500 0).core 0).pnl.phase = 1 ∧
      ((win 40500 0).core 0).is.stopped = false ∧ (win 40500 0).ctl.halt = false ∧ (win 40500 0).sandActive = true ∧
      (win 40500 0).passTicks 0 ≤ (win 40500 0).remaining 0 ∧ ((win 40500 0).core 0).sandable = true ∧
      (win 40499 0).remaining 0 < (win 40499 0).passTicks 0) ∧
    ((dev stIdle).sandSpare = true ∧ (∀ x ∈ (dev stIdle).sand.spares, x.1 / 8 ≠ 255 / 8) ∧
      255 % 8 < ((dev stIdle).spareCores 31).length) ∧
    (∀ n ∈ [81999, 82000], ({ Core.init with sand := some n } : Core).sand = some n) ∧
    ((win 300 0).remaining 0 ≤ 300 ∧ ({ Core.init with sand := some 5 } : Core).sand.isSome = true) ∧
    (let s (now : Nat) : State :=
       { dev stIdle with scr := { Screed.init with now, running := true }, sand := { Sand.init with since := 1 } }
     afind (s 0).sand.overdue 0 = none ∧ (s 0).sand.since + 86400 * 10 ^ 9 < (s 86400000000002).scr.now ∧
       (s 86400000000001).scr.now ≤ (s 0).sand.since + 86400 * 10 ^ 9) := by decide +kernel

/-! ### Witnesses: the fabric -/

/-- A device of a partition of two, coordinates 0 and 1, whose port 12 is as given. -/
def ported (x : Port) (st : Nat) : State :=
  { dev st with
    dregs := dregsInit,
    fab := { Fab.init with dims := 1, root := 1, manOk := true, ports := [(0, x), (12, x)] } }

/-- An ACTIVE port to device 1. -/
def active : Port := { Port.init with st := 4, listed := true, nbr := 1, gen := 3, lanes := 16, nbrGen := 3, nbrLocked := true }

theorem witness_port_events :
    active.alive = true ∧ Port.init.alive = false ∧
    (let s : State := { ported active stRunning with dregs := [(0x20000C, 1)] }
     (s.port 12).up = true ∧ (s.port 12).nbr ≠ s.fab.coord ∧ s.inPartition (s.port 12).nbr = true ∧ s.ctl.st = stRunning ∧
       s.ctl.fault = none) ∧
    (∀ st ∈ [0, 1, 2, 3, 4, 5, 6], ((ported { active with st } stIdle).port 12).st = st) ∧
    (active.detectAt + active.trainLimit < 500000001 ∧ 500000000 ≤ active.detectAt + active.trainLimit ∧
      ({ active with cls := 2 } : Port).trainLimit = 1000000000) ∧
    (∀ n ∈ [65536, 65537], ({ active with fec := [(0, 15, n)] } : Port).corrected 999999 15 = n ∧
      ({ active with fec := [(0, 15, n)] } : Port).corrected 1000000 15 = 0) ∧
    (active.listed = true ∧ active.disable = false ∧ active.gen = 3 ∧ active.spare = 31) ∧
    ((ported active stIdle).portOpen = true ∧ (ported active stIdle).writable = true ∧
      (ported active stRunning).portOpen = true ∧ (ported active stRunning).writable = false) ∧
    (trainedLanes 3 0 = some (16, 31) ∧ trainedLanes 3 0xFFFF = none) ∧ (15 : Nat) < 16 ∧ (12 : Nat) < 13 := by
  decide +kernel

theorem witness_screed_exchange :
    let s (ns : Nat) : State := { ported active stIdle with scr := { Screed.init with ns } }
    ((s 10000).port 0).st = 4 ∧ ((s 10000).port 0).hbSent + 10000 ≤ ((s 10000).refCount : Int) ∧
    ((s 9999).refCount : Int) < ((s 9999).port 0).hbSent + 10000 ∧
    (∀ running ∈ [false, true],
      let s : State := { ported active stIdle with scr := { Screed.init with running, now := b2n running } }
      let u := after (.heartbeat 0 ⟨0, 0, 0, 0, false, true⟩) s
      (s.port 0).st = 4 ∧ u.heeds 0 = true ∧ u.heeds 12 = false ∧ u.scr.running = running ∧ u.isRoot = false) ∧
    (let r : State := { s 50000000 with fab := { (s 0).fab with root := 0 } }
     r.ctl.st ≠ stOff ∧ r.isRoot = true ∧ r.scr.running = false ∧ r.fab.upAt + 50000000 ≤ r.scr.ns) ∧
    (s 0).isRoot = false ∧
    (∀ n ∈ [39999, 40000], (((s n).refCount : Int) - ((s n).port 0).hbSeen).toNat / 10000 = n / 10000) := by decide +kernel

/-- A header from device 1 to this one. -/
def hdr (addr : Nat) : FabHeader := { port := 0, src := 1, dst := 0, tag := 7, addr, pid := 0, epoch := 0 }

theorem witness_fabric_requests :
    let s := ported active stRunning
    (∀ x ∈ [(spHbm, 0), (spSp, 0), (spSync, 0), (spHbm, 0x6C00000000), (spMmio, 0)], s.takesReq (hdr (gaMake 0 x.1 x.2)) = true ∧
      s.mustWait [] ⟨(2049, 7), gaMake 0 x.1 x.2, none, .clean⟩ = false) ∧ s.outstanding < 32768 ∧
    s.lineRefusal (gaMake 0 spMmio 0) ≠ none ∧ s.lineRefusal (gaMake 0 spHbm 0) = none ∧
    s.lineRefusal (gaMake 0 spSp 0) = none ∧ s.stackOut (gaMake 0 spHbm 0) = false ∧
    (let t : State := { s with dregs := [(0x12000, 1 <<< 16 + 6 <<< 20), (0x12020, 1)] }
     t.takesReq (hdr (gaMake 0 spDdr 0)) = true ∧ t.lineRefusal (gaMake 0 spDdr 0) = none ∧
       t.mustWait [] ⟨(2049, 7), gaMake 0 spDdr 0, none, .clean⟩ = false ∧
       let u : State := { t with mem := { Tiers.init with ddrWin := [(0, 1)] } }
       u.takesReq (hdr (gaMake 0 spDdr 0)) = true ∧
       u.mustWait [] ⟨(2049, 7), gaMake 0 spDdr 0, some (List.replicate 512 0#8, false), .clean⟩ = true) ∧
    (let t : State := { s with fab := { s.fab with inb := 16384 } }
     t.mine (hdr 0) = true ∧ 16384 ≤ t.fab.inb ∧ (t.port 0).reqBuf = []) ∧
    (semPlace (gaOff (gaMake 0 spSync 0))).isSome = true ∧
    (gaSpace (gaMake 0 spSp (1791 <<< 20 + 3 <<< 16)) = spSp ∧ gaOff (gaMake 0 spSp (1791 <<< 20 + 3 <<< 16)) >>> 20 < 1792 ∧
      bits (gaOff (gaMake 0 spSp (1791 <<< 20 + 3 <<< 16))) 19 16 < 4) ∧
    (∀ closed ∈ [false, true],
      ({ Core.init with mbs := [(3, { Mbx.init with closed })] } : Core).mbx 3 = { Mbx.init with closed }) ∧
    (headerOk { hdr 0 with pid := 1 } = true ∧ (s.port 0).st = 4 ∧ (1 : Nat) ≠ s.pid ∧ (1 : Nat) ≠ s.epochNo) ∧
    (headerOk { hdr 0 with dst := 1 } = true ∧ (1 : Nat) ≠ s.fab.coord ∧ s.leaves 0x01 1 0 = some 0) := by decide +kernel

theorem witness_fabric_responses :
    let req (kind : Nat) : FabReq := ⟨7, 0, 0, kind, 0, 0⟩
    let s (kind : Nat) : State :=
      let k := Core.init.setWait 0 (some ⟨0, 1, false, 0, 0, 0, 0⟩)
      let t := ported active stRunning
      { t with cores := [(0, { k with lines := [{ lineAt 1 0 false 0 with tag := 0 }] })],
               fab := { t.fab with reqs := [req kind], seen := [(1, 5, 0)] } }
    let h := hdr (gaMake 0 spSp (1791 <<< 20 + 7))
    (∀ kind ∈ [0, 1, 2, 3], (s kind).mine h = true ∧ (s kind).asked h [kind] = some (req kind, []) ∧
      (s kind).asked h [0, 1, 2, 3] = some (req kind, [])) ∧
    ((s 0).core 0).lineOf 0 = some { lineAt 1 0 false 0 with tag := 0 } ∧
    ((s 1).core 0).waitOf 0 = some ⟨0, 1, false, 0, 0, 0, 0⟩ ∧ (s 0).asked h [3] = none ∧ (s 3).asked h [0] = none ∧
    routeOf h.addr = some (1791, 7) ∧ (h.src, 5 % 65536, h.epoch) ∈ (s 0).fab.seen ∧
    (h.src, 6 % 65536, h.epoch) ∉ (s 0).fab.seen ∧ (s 0).ctl.fault = none ∧ knownOps.contains 0x7F = false := by
  decide +kernel

/-! ### Witnesses: power, recorder, queue, invariants -/

theorem witness_power :
    State.reset.ctl.st = stOff ∧ State.reset.rails = 0 ∧ ({ State.reset with rails := 1 } : State).rails = 1 ∧
    ({ bootEnv with railsOk := false } : BootEnv).railsOk = false ∧ bootEnv.railsOk = true ∧
    pickCopy ⟨false, 1, 0⟩ ⟨false, 1, 0⟩ = none ∧ (pickCopy bootEnv.primerA bootEnv.primerB).isSome = true ∧
    (pickCopy bootEnv.fwA bootEnv.fwB).isSome = true ∧ (State.reset.sec.idk && State.reset.sec.dtk) = true ∧
    (({ Sec.init with idk := false } : Sec).idk && Sec.init.dtk) = false ∧
    bootEnv.bist = [] ∧ bootEnv.factoryOut = [] ∧ bootEnv.factoryRows = [] ∧ bootEnv.records = [] ∧
    bootEnv.bistRows = [] ∧ State.reset.pat.env = none ∧ bootEnv.plumbFail = [] ∧ State.reset.scr.running = false ∧
    (let s : State := { dev stBooting with ctl := { Ctl.init with st := stBooting, bootStep := 13 } }
     s.ctl.st = stBooting ∧ s.ctl.bootStep = 13) ∧
    (dev stIdle).ctl.st ≠ stOff ∧ (dev stIdle).ctl.st ≠ stBooting ∧ (7 : Nat) < 8 ∧ (15 : Nat) < 16 ∧ (3 : Nat) < 4 := by
  decide +kernel

theorem witness_recorder_event :
    let e : Ev := ⟨0x100, none, none, [1], 7⟩
    let at0 (r : Recorder) : State := { dev stIdle with er := { r with q := [e] } }
    let once := (after .recorderEvent (at0 Recorder.init)).er
    (at0 Recorder.init).er.q = e :: [] ∧ (at0 { Recorder.init with frozen := true }).er.frozen = true ∧
    (at0 { Recorder.init with full := true }).er.full = true ∧ (at0 once).er.folds e = true ∧
    (at0 Recorder.init).er.folds e = false ∧ 0 + 7 + 6 ≤ 2 ^ 20 ∧
    ¬({ Recorder.init with wptr := 2 ^ 20 - 12 } : Recorder).wptr + 7 + 6 ≤ 2 ^ 20 := by decide +kernel

theorem witness_step_runs_front_command :
    let s : State := { State.reset with pending := [.watchdog, .recorderEvent] }
    s.pending = Instr.watchdog :: [.recorderEvent] := rfl

theorem witness_empty_queue_ticks :
    (State.reset.pending = [] ∧ State.reset.ctl.st = stOff) ∧ ((dev stIdle).pending = [] ∧ (dev stIdle).ctl.st ≠ stOff) ∧
    (∀ slew ∈ [(-1 : Int), 0, 1],
      let s (now : Nat) : State := { dev stIdle with scr := { Screed.init with now, running := true, slew } }
      (s 1023).scr.now < (s 1023).scr.lastSlew + 1024 ∧ (s 1024).scr.lastSlew + 1024 ≤ (s 1024).scr.now ∧
        (s 1024).scr.slew = slew) ∧
    ((∀ p ∈ upto 13, ((dev stIdle).port p).reqBuf = []) ∧ (dev stIdle).mem.held = [] ∧ (dev stIdle).ctl.q = []) ∧
    (∀ ends ∈ [1, 2],
      let h : Held := ⟨(0, 15), gaMake 0 spDdr 0, none, .clean⟩
      let l := lineAt 1 0 false (gaMake 0 spDdr 0)
      let s : State := { devCore stRunning { Core.init with lines := [l] } with
        mem := { Tiers.init with ddrWin := [(0, ends)], held := [h] } }
      s.mem.held = [h] ∧ gaSpace h.addr = spDdr ∧ (s.core 0).lineOf 15 = some l ∧ l.stage = 1 ∧ l.write = false ∧
        s.tickOnce.refreshing h.addr = (ends == 2)) := by decide +kernel

/-- A zeroised device that runs a command, and a command on a device in its legal states. -/
theorem witness_keys_and_modes :
    let s : State := { dev stIdle with
      pending := [.controlLinkTrain]
      sec := { Sec.init with zeroised := true, idk := false, dtk := false } }
    s.erased ∧ s.modesLegal ∧ ∃ t, step s = .next t := by
  refine ⟨fun _ => ⟨rfl, rfl, rfl, rfl, rfl, rfl, rfl⟩, ⟨by decide, fun b => ?_⟩, _, rfl⟩
  exact ⟨(by decide : (0 : Nat) ≤ 3), fun p h => by cases h⟩

theorem witness_memories_stay_canonical :
    let s : State := { dev stIdle with
      pending := [.watchdog]
      mem := { Tiers.init with hbm := [(0, 1#8), (5, 2#8)] }
      cores := [(0, coreAt 5), (7, Core.init)] }
    s.memWf = true ∧ ∃ t, step s = .next t := ⟨by decide +kernel, _, rfl⟩

theorem witness_memory_frame :
    (∃ t, exec .watchdog (dev stIdle) = .next t) ∧ writesTiers .watchdog = false ∧ writesPads .watchdog = false ∧
      writesSems .watchdog = false := ⟨⟨_, rfl⟩, rfl, rfl, rfl⟩


/-! ### Worked examples and boundary values of the spec -/

/-- One command for each check of a unit's number, one past its last: the check refuses it. -/
theorem test_wellFormed_refuses :
    ∀ i ∈ ([.add 1792, .send 0 4, .queueMessageArrival 0 8, .creditReturn 0 8, .mailboxRecordLand 0 4, .semRelease 0 7,
    .waitLimitExpiry 0 8, .semHomeCycle 1829, .bayStepApply 32, .regionUv 37, .retrain 13,
    .wrAck ⟨0, 4096, 0, 0, 0, 0, 0⟩, .semOp ⟨0, 0, 0, 0, 0, 0, 0⟩ 4 0 0, .laneRepair 0 ⟨17, 0, 0⟩, .controlLinkDown 4, .groupReplay 0 3, .hbmRefRate 12,
    .hbmRefreshWindow 0 64, .ddrLatchOpen 8, .ddrRefreshWindow 0 4, .wdFlipComplete 256, .sandingPassStart 2048,
    .tamperTrip 4, .scrimModuleFail 8 0, .scrimModuleFail 0 16] : List Instr), wellFormed i = false := by decide

/-- The same commands at the last unit of each kind. -/
theorem test_wellFormed_takes :
    ∀ i ∈ ([.add 1791, .send 0 3, .queueMessageArrival 0 7, .creditReturn 0 7, .mailboxRecordLand 0 3, .semRelease 0 6,
    .waitLimitExpiry 0 7, .semHomeCycle 1828, .bayStepApply 31, .regionUv 36, .retrain 12,
    .wrAck ⟨0, 4095, 0, 0, 0, 0, 0⟩, .semOp ⟨0, 0, 0, 0, 0, 0, 0⟩ 3 0 0, .laneRepair 0 ⟨16, 0, 0⟩, .controlLinkDown 3, .groupReplay 0 2, .hbmRefRate 11,
    .hbmRefreshWindow 0 63, .ddrLatchOpen 7, .ddrRefreshWindow 0 3, .wdFlipComplete 255, .sandingPassStart 2047,
    .tamperTrip 3, .scrimModuleFail 7 0, .scrimModuleFail 0 15] : List Instr), wellFormed i = true := by decide

/-- The table gives no row bits. -/
theorem test_decode_none : decodeTableWord 32 0 = none := rfl

/-- 05, "one rounding per block": 1.0 with three products of 2^-25 and 29 of zero closes to 0x3F80_0001. -/
theorem test_close16_example :
    close16 0x3F800000#32 (List.replicate 3 (.fin false 1 (-25)) ++ List.replicate 29 (.fin false 0 0)) = 0x3F800001#32 := by
  decide +kernel

/-- The same example in FV1 mode (R129): each product is rounded, and 1.0 stays. -/
theorem test_fv1_example : fv1Add 0x3F800000#32 (List.replicate 3 (.fin false 1 (-25))) = 0x3F800000#32 := by
  decide +kernel

/-- 05, "input words of one draw": its four words are x0 to x3 of the generator. -/
theorem test_kcg_words (seed : List Word) :
    kcg seed 0x000100020003 (3 * 1792 + 17) 5 1000#32 =
      let x := kcgRounds seed 10 0 (0x3E8#32, 0x00020003#32, 0x00050001#32, 0x1511#32)
      (x.1 + x.2.2.1) ^^^ x.2.2.2 := by
  have h1 : BitVec.ofNat 32 0x000100020003 = 0x00020003#32 := by decide
  have h2 : BitVec.ofNat 32 ((0x000100020003 >>> 32) % 65536 ||| (5 % 65536) <<< 16) = 0x00050001#32 := by decide
  have h3 : BitVec.ofNat 32 (3 * 1792 + 17) = 0x1511#32 := by decide
  rw [kcg, h1, h2, h3]

/-- 13, "locating a spread line": stack H7, pseudo-channel 2, stack line 83,330 of band 3. -/
theorem test_spread_line :
    let l := hbmLine (1 <<< 3) 0x00091E848000
    lineStack l = 7 ∧ linePc l = 2 ∧ l % 2 ^ 21 = 83330 := by decide +kernel

/-- 14, Table 14-3: the route through the fold port. -/
theorem test_fold_route :
    [(0x0A5, 12), (0xF5A, 1), (0xF58, 2), (0xF5C, 5), (0xF7C, 6)].all
      (fun x => nextPort true 12 x.1 0xF3C == some x.2) = true ∧ nextPort true 12 0xF3C 0xF3C = none := by decide +kernel

/-- 16, Table 16-7: the ticks a sanding pass needs at steps 0, 2 and 3. -/
theorem test_pass_ticks :
    [(0, 40500), (2, 50197), (3, 57052)].all (fun x =>
      ({ dev stRunning with bays := [(0, { Bay.init with step := x.1 })] } : State).passTicks 0 == x.2) = true := by
  decide +kernel

/-- Tables 15-1, 15-2 and 15-4: frequencies of the steps, the planning clock, the ceilings of the lowest and the highest
cap, R354's droop floor. -/
theorem test_clock_tables :
    (upto 4).map targetMhz = [2100, 1900, 1700, 1500] ∧ (upto 4).map fplan = [2050, 1850, 1650, 1450] ∧
      floorMhz 0 = 1800 ∧ capCeiling 0 = 1170 ∧ capCeiling 10 = 2730 := by decide +kernel

/-- R326: one failed lane goes to the spare, two of one half leave the other half. -/
theorem test_lanes : trainedLanes 3 0 = some (16, 31) ∧ trainedLanes 3 (1 <<< 5) = some (16, 5) ∧
    (trainedLanes 3 3).map (·.1) = some 8 ∧ trainedLanes 3 0x0303 = none := by decide +kernel

/-- 11, Table 11-13, steps 5 and 6: E of 128 bytes (its header included) at offset 960 of a ring of 1,024 goes behind a
pad of 64; the credit falls from 320 to 128. -/
theorem test_ring_end :
    let k := coreAt (inCtl (0x14 + 1 <<< 22 + 7 <<< 25))
    let s := devCore stRunning { k with
      regs := [(0x7420, 3), (0x7424, 0x40)], rts := [(1, ⟨1, 320, 960, 4⟩)],
      sc := { k.sc with s := [(1, 64#32), (2, 64#32)] } }
    let t := (after (.mbSend 0) s).core 0
    (t.route 1).woff = 128 ∧ (t.route 1).credit = 128 := by decide +kernel

/-- Table 03-6 on 64 and 5. -/
theorem test_alu_table :
    [(0x01, 0, 69#32), (0x02, 0, 59#32), (0x03, 0, 320#32), (0x07, 0, 2048#32), (0x08, 0, 2#32), (0x0A, 0, 5#32),
      (0x0C, 0, 0#32), (0x10, 0x1FFFF, 63#32), (0x15, 3, 0x18000#32)].all
        (fun x => alu x.1 64#32 5#32 x.2.1 == x.2.2) = true := by decide +kernel

/-- R254: semaphore arithmetic saturates at both ends. -/
theorem test_sem_saturates : satSem 0x7FFFFFFF#32 1 = 0x7FFFFFFF#32 ∧ satSem 0x80000000#32 (-1) = 0x80000000#32 := by
  decide +kernel

/-- ADD of the scalar slot: S3 := S1 + S2, read back in the next cycle; S0 stays 0 (R47). -/
theorem test_add :
    let go (rd : Nat) := after (.add 0) (atBundle (inScl (0x01 + rd <<< 8 + 1 <<< 13 + 2 <<< 18)))
    ((go 3).core 0).s 3 = 69#32 ∧ ((go 0).core 0).s 0 = 0#32 := by decide +kernel

/-- BEQ of S1 with itself goes to its target after the delay bundle (R58). -/
theorem test_beq_target :
    branchTo (coreAt 0) 10 (sclOf (0x20 + 1 <<< 13 + 1 <<< 18 + 200 <<< 23)) = 200 ∧
      branchTo (coreAt 0) 10 (sclOf (0x21 + 1 <<< 13 + 1 <<< 18 + 200 <<< 23)) = 12 := by decide +kernel

/-- FP32 lanes: 1.0 + 2.0 = 3.0; 2^24 + 1 ties to even; (1 + 2^-23)^2 - 1 with one rounding; a signalling NaN gives the
canonical NaN (R103). -/
theorem test_fp32_lanes :
    add32 0x3F800000#32 0x40000000#32 = 0x40400000#32 ∧ add32 0x4B800000#32 0x3F800000#32 = 0x4B800000#32 ∧
      fma32 0x3F800001#32 0x3F800001#32 0xBF800000#32 = 0x34800000#32 ∧ mul32 0x7F800001#32 0x3F800000#32 = nan32 := by
  decide +kernel

/-- R123: hi and lo of a value whose low part rounds to BF16 exactly. -/
theorem test_split : splitHi 0x3F80FF00#32 = 0x3F800000#32 ∧ splitLo 0x3F80FF00#32 = 0x3BFF0000#32 := by decide +kernel

/-- R133 and R134: 2^3 and the reciprocals of exact powers are exact. -/
theorem test_transcendentals :
    exp2_32 0x40400000#32 = 0x41000000#32 ∧ log2_32 0x41000000#32 = 0x40400000#32 ∧
      rsqrt32 0x40800000#32 = 0x3F000000#32 ∧ recip32 0x40800000#32 = 0x3E800000#32 := by decide +kernel

/-- Table 05-2: 448 is E4M3's largest value, and 464 saturates to it. -/
theorem test_e4m3 :
    fmtE4M3.decode 0x7E = .fin false 14 5 ∧ fmtE4M3.encode .rne true 0 (.fin false 29 4) = 0x7E := by decide +kernel

/-- R415: a command that is not legal is ignored: counted, answered with IGNORED, nothing else. -/
theorem test_ignored :
    let t := after (.start { frm with tag := 9 }) (dev stIdle)
    t.ctl.st = stIdle ∧ t.out = [.reply 0x06 9 2 0 0 [] none] := by decide +kernel

/-- SETCAP 0 in IDLE: GOV_CAP holds 0 and every bay the ceiling of 1,500 W (Table 15-4). -/
theorem test_setcap :
    let t := after (.setcap { frm with arg1 := 0 }) (dev stIdle)
    t.out = [.reply 0x0A 0 0 0 0 [] none] := by decide +kernel

/-- SEM.ADD of 3 to the core's own semaphore 5: at its home's cycle the semaphore is 3 (R253, R254, R257). -/
theorem test_semAdd :
    let s := after (.semAdd 0) (atBundle (inCtl (0x1A + (3 + 5 <<< 15 + 1 <<< 22) <<< 25)))
    (after (.semHomeCycle 0) s).semVal (ownSem 0 5) = 3#32 := by decide +kernel

end Sys2Proof.Tests
end

