-- ==== Sys2Proof/Proofs/BundleStream.lean ====
section
/-!
SUPPORT. What the device holds once the bundle at a core's issue point has issued, and the settled statements on issue,
on the scalar unit and on branches (R47 to R58).
-/

namespace Sys2Proof.Machine

/-! ### Two writes of one core -/

theorem adel_ains_self {α : Type} (m : AMap α) (k : Nat) (v : α) : adel (ains m k v) k = adel m k := by
  induction m with
  | nil => simp [ains, adel]
  | cons x m ih =>
    obtain ⟨j, w⟩ := x
    by_cases hl : k < j
    · simp [ains, adel, hl]
    · by_cases hj : j = k <;> simp [ains, adel, hl, hj, ih]

theorem adel_adel_self {α : Type} (m : AMap α) (k : Nat) : adel (adel m k) k = adel m k := by
  induction m with
  | nil => rfl
  | cons x m ih =>
    obtain ⟨j, w⟩ := x
    by_cases hj : j = k <;> simp [adel, hj, ih]

theorem aput_aput_self {α : Type} (m : AMap α) (k : Nat) (v w : α) : aput (aput m k v) k w = aput m k w := by
  simp only [aput, adel_ains_self, adel_adel_self]

theorem State.modCore_setCore (s : State) (c : Nat) (k : Core) (f : Core → Core) :
    (s.setCore c k).modCore c f = s.setCore c (f k) := by
  simp only [State.modCore, State.core_setCore_self]
  simp only [State.setCore, aput_aput_self]

/-! ### Starting operations leaves the bays as they are -/

theorem foldl_bays {α : Type} {f : State → α → State} (hf : ∀ t x, (f t x).bays = t.bays) (l : List α)
    (s : State) : (l.foldl f s).bays = s.bays := by
  induction l generalizing s with
  | nil => rfl
  | cons x l ih => exact (ih (f s x)).trans (hf s x)

@[simp] theorem State.portOut_bays (s : State) (p i n : Nat) (o : Out) : (s.portOut p i n o).bays = s.bays := by
  unfold State.portOut
  extract_lets x
  split <;> rfl

theorem State.broadcastFault_bays (s : State) (n r : Nat) : (s.broadcastFault n r).bays = s.bays := by
  unfold State.broadcastFault
  split
  · rfl
  · exact foldl_bays (fun t _ => t.portOut_bays _ _ _ _) _ _

theorem State.raiseFault_bays (s : State) (r c a : Nat) : (s.raiseFault r c a).bays = s.bays := by
  unfold State.raiseFault
  split
  · rfl
  · split
    · exact State.broadcastFault_bays _ _ _
    · split <;> rfl

@[simp] theorem State.poisonFault_bays (s : State) (c a b d : Nat) : (s.poisonFault c a b d).bays = s.bays :=
  State.raiseFault_bays _ _ _ _

@[simp] theorem State.countErrs_bays (s : State) (c r a b : Nat) : (s.countErrs c r a b).bays = s.bays := by
  unfold State.countErrs
  extract_lets s1
  have h1 : s1.bays = s.bays := by
    show State.bays (if _ then _ else _) = _
    split <;> rfl
  split
  · exact h1
  · exact h1

@[simp] theorem State.readRow_bays (s : State) (c r : Nat) : (s.readRow c r).1.bays = s.bays := by
  unfold State.readRow
  extract_lets k ce ue t
  show State.bays (if _ then _ else _) = _
  split <;> simp

@[simp] theorem State.readCol_bays (s : State) (c n : Nat) : (s.readCol c n).1.bays = s.bays := by
  unfold State.readCol
  extract_lets k errs ce ue s1 s2
  have h1 : s1.bays = s.bays := by
    show State.bays (if _ then _ else _) = _
    split <;> rfl
  show State.bays (if _ then _ else _) = _
  split
  · exact h1
  · exact h1

@[simp] theorem State.readCols_bays (s : State) (c : Nat) (l : List Nat) : (s.readCols c l).1.bays = s.bays := by
  induction l generalizing s with
  | nil => rfl
  | cons n l ih => exact (ih _).trans (s.readCol_bays c n)

@[simp] theorem State.weightSide_bays (s : State) (c : Nat) (x : MatSlot) (g : Tag) :
    (s.weightSide c x g).1.bays = s.bays := by
  unfold State.weightSide
  extract_lets col r e r2 rk back z n u
  split
  · exact s.readCol_bays _ _
  · split
    · split
      · simp [z, r2]
      · exact s.readCols_bays _ _
    · exact s.readCols_bays _ _

@[simp] theorem State.mmaArray_bays (s : State) (c : Nat) (x : MatSlot) (g : Tag) (w : List FVal) (wp : Bool)
    (wc : BitVec 512) (wcp : Bool) (mask : Word) (a : Nat) : (s.mmaArray c x g w wp wc wcp mask a).bays = s.bays := by
  have hact : (s.readAct c x a).1.bays = s.bays := by
    unfold State.readAct
    extract_lets r r2
    split <;> simp [r, r2]
  have hscales (t : State) : (t.readScales c x a).1.bays = t.bays := by
    unfold State.readScales
    split <;> simp
  exact (hscales _).trans hact

theorem State.mma_bays (s : State) (c : Nat) (k0 : Core) (x : MatSlot) : (s.mma c k0 x).bays = s.bays := by
  unfold State.mma
  split
  · rfl
  · next g =>
    split
    · rfl
    · extract_lets wr sr mask s1
      have hsr : sr.1.bays = s.bays := by
        show State.bays (Prod.fst (if _ then _ else _)) = _
        split <;> simp [wr]
      have h1 : s1.bays = s.bays := (foldl_bays (fun t _ => t.mmaArray_bays _ _ _ _ _ _ _ _ _) _ _).trans hsr
      split
      · exact (foldl_bays (f := fun t a => t.modCore c fun k => k.retire a x.bank) (fun _ _ => rfl) _ _).trans h1
      · exact h1

theorem State.runMat_bays (s : State) (c : Nat) (k0 : Core) (x : MatSlot) : (s.runMat c k0 x).bays = s.bays := by
  unfold State.runMat
  split
  · exact s.mma_bays _ _ _
  · refine foldl_bays ?_ _ s
    exact fun _ _ => rfl
  · refine foldl_bays ?_ _ s
    exact fun _ _ => rfl
  · refine foldl_bays ?_ _ s
    exact fun t a => t.readRow_bays c _
  · rfl

theorem State.runVec_bays (s : State) (c : Nat) (k0 : Core) (i : Nat) (x : VecSlot) :
    (s.runVec c k0 i x).bays = s.bays := by
  unfold State.runVec
  split
  · rfl
  · extract_lets s1 s2
    have h2 : s2.bays = s.bays := by
      show State.bays (if _ then _ else _) = _
      split
      · exact s1.readRow_bays c _
      · split <;> simp [s1]
    split
    · exact h2
    · exact h2

theorem State.runMatVec_bays (s : State) (c : Nat) (b : Bundle) (i : Nat) : (s.runMatVec c b i).bays = s.bays :=
  (State.runVec_bays _ _ _ _ _).trans (s.runMat_bays _ _ _)

/-! ### What an issuing bundle cannot hold -/

/-- R59: a branch that issues neither stands in a delay bundle nor carries a mark. -/
theorem branch_of_issues {s : State} {c : Nat} (h : s.issues c = true)
    (hb : isBranch (s.core c).atIssue.scl.op = true) :
    (s.core c).is.delay = false ∧ (s.core c).atIssue.mark = false := by
  simp only [State.issues, Bool.and_eq_true, List.isEmpty_iff] at h
  obtain ⟨⟨_, hv⟩, _⟩ := h
  simp only [bundleViols, headViols, slotViols, List.append_eq_nil_iff] at hv
  obtain ⟨⟨⟨⟨⟨_, _, hrow, _⟩, _⟩, _⟩, _⟩, _⟩ := hv
  simpa [vrow, hb] using hrow

/-! ### The state after the bundle at the issue point -/

/-- The state once the bundle at the issue point of core c has issued. -/
def State.afterBundle (s : State) (c : Nat) : State :=
  (s.ported c).runBundle c (s.core c).atIssue (s.core c).bundleIndex false

/-- The state on which the scalar slot of the bundle at the issue point starts: the matrix and the vector slot have
started. -/
def State.atScalar (s : State) (c : Nat) : State :=
  (s.ported c).runMatVec c (s.core c).atIssue (s.core c).bundleIndex

theorem exec_bundleRow_issues {s : State} {c : Nat} (h : s.issues c = true) {row : (Nat → Instr) × (Bundle → Bool)}
    (hr : row ∈ bundleRows) (hp : row.2 (s.core c).atIssue = true) : exec (row.1 c) s = .next (s.afterBundle c) :=
  exec_row h (exec_bundleRow s c row hr) hp

theorem exec_scl_issues {s : State} {c op : Nat} {i : Instr} (h : s.issues c = true) (hi : exec i s = issueScl c op s)
    (ho : (s.core c).atIssue.scl.op = op) : exec i s = .next (s.afterBundle c) :=
  exec_row h hi (by simp [ho])

/-- Where issue goes on (R49, R50, R58). -/
theorem afterBundle_point (s : State) (c : Nat) :
    let k := s.core c
    let b := k.atIssue
    let is := ((s.afterBundle c).core c).is
    is.next = (if k.is.delay then k.is.target else k.bundleIndex + 1) ∧ is.delay = isBranch b.scl.op ∧
      is.target = branchTo k k.bundleIndex b.scl ∧ is.eligible = k.is.clk + 1 + (if b.mark then 0 else b.run) ∧
      is.pcIndex = k.bundleIndex ∧ is.pcDelay = k.is.delay := by
  obtain ⟨ps, hk⟩ := ported_core s c
  have hp := runBundle_point (s.ported c) c (atIssue_masks (s.core c)) (s.core c).bundleIndex
  rw [hk] at hp
  simp only [Issue.point, Prod.mk.injEq] at hp
  obtain ⟨hnext, hdelay, htarget, helig, hpc, _, hpcd⟩ := hp
  exact ⟨hnext, hdelay, htarget, helig, hpc, hpcd⟩

/-- Only the scalar slot writes the scalar unit. -/
theorem afterBundle_sc (s : State) (c : Nat) :
    ((s.afterBundle c).core c).sc =
      (((s.atScalar c).runScl c (s.core c) (s.core c).bundleIndex (s.core c).atIssue.scl).core c).sc := by
  obtain ⟨ps, hk⟩ := ported_core s c
  have h := ((runBundle_rest (s.ported c) c (atIssue_masks (s.core c)) (s.core c).bundleIndex false).2 c).2
  rw [hk] at h
  exact h

theorem atScalar_kept (s : State) (c : Nat) : Kept s (s.atScalar c) :=
  (ported_same s c).kept.trans (runMatVec_kept _ _ _ _)

theorem atScalar_bays (s : State) (c : Nat) : (s.atScalar c).bays = s.bays :=
  State.runMatVec_bays _ _ _ _

/-- The scalar unit of the core after a bundle whose scalar slot does f to the core. -/
theorem afterBundle_sc_of {s : State} {c : Nat} {f : Core → Core}
    (hf : (s.atScalar c).runScl c (s.core c) (s.core c).bundleIndex (s.core c).atIssue.scl =
      (s.atScalar c).modCore c f) :
    ((s.afterBundle c).core c).sc = (f ((s.atScalar c).core c)).sc := by
  rw [afterBundle_sc, hf, State.core_modCore_self]

/-! ### Reads of the scalar unit -/

theorem Core.s_congr {k l : Core} (h : k.sc = l.sc) (n : Nat) : k.s n = l.s n := by
  simp only [Core.s, h]

theorem Core.lc_congr {k l : Core} (h : k.sc = l.sc) (n : Nat) : k.lc n = l.lc n := by
  simp only [Core.lc, h]

theorem atScalar_s (s : State) (c n : Nat) : ((s.atScalar c).core c).s n = (s.core c).s n :=
  Core.s_congr ((atScalar_kept s c).core c).sc n

theorem atScalar_lc (s : State) (c n : Nat) : ((s.atScalar c).core c).lc n = (s.core c).lc n :=
  Core.lc_congr ((atScalar_kept s c).core c).sc n

/-- The condition of Core.s_setS in terms of the register that is read. -/
theorem Core.s_setS_read (k : Core) (r : Nat) (v : Word) (n : Nat) :
    (k.setS r v).s n = if n = r ∧ n ≠ 0 then v else k.s n := by
  rw [Core.s_setS]
  exact if_congr (and_congr_right fun hn => by rw [hn]) rfl rfl

@[simp] theorem Core.setS_tickHi (k : Core) (r : Nat) (v : Word) : (k.setS r v).sc.tickHi = k.sc.tickHi := by
  unfold Core.setS; split <;> rfl

@[simp] theorem Core.setS_stepHi (k : Core) (r : Nat) (v : Word) : (k.setS r v).sc.stepHi = k.sc.stepHi := by
  unfold Core.setS; split <;> rfl

/-! ### The scalar slot by operation (Table 03-6) -/

/-- Operations below SLD other than NOP are those of the arithmetic rows and the values between them. -/
theorem runScl_alu (s : State) (c : Nat) (k0 : Core) (i : Nat) {x : SclSlot} (hx : 0 < x.op ∧ x.op < 0x18) :
    s.runScl c k0 i x = s.modCore c fun k => k.setS x.rd (alu x.op (k0.s x.rs1) (k0.s x.rs2) x.imm) := by
  obtain ⟨hpos, hlt⟩ := hx
  have hne (n : Nat) (hn : 0x18 ≤ n) : (x.op == n) = false := beq_false_of_ne (by omega)
  have h0 : (x.op == 0) = false := beq_false_of_ne (by omega)
  have hbr : isBranch x.op = false := by simp [isBranch]; omega
  simp [State.runScl, h0, hne, hbr]

/-- Branches other than JAL write nothing. -/
theorem runScl_branch (s : State) (c : Nat) (k0 : Core) (i : Nat) {x : SclSlot} (hx : 0x20 ≤ x.op ∧ x.op ≤ 0x27)
    (hj : x.op ≠ 0x26) : s.runScl c k0 i x = s := by
  obtain ⟨hge, hle⟩ := hx
  have hlo (n : Nat) (hn : n < 0x20) : (x.op == n) = false := beq_false_of_ne (by omega)
  have hhi (n : Nat) (hn : 0x27 < n) : (x.op == n) = false := beq_false_of_ne (by omega)
  have hbr : isBranch x.op = true := by simp [isBranch, hge, hle]
  simp [State.runScl, hlo, hhi, hbr, hj]

theorem runScl_jal (s : State) (c : Nat) (k0 : Core) (i : Nat) {x : SclSlot} (hx : x.op = 0x26) :
    s.runScl c k0 i x = s.modCore c fun k => k.setS x.rd (BitVec.ofNat 32 (i + 2)) := by
  simp [State.runScl, hx]

theorem runScl_lset (s : State) (c : Nat) (k0 : Core) (i : Nat) {x : SclSlot} (hx : x.op = 0x28) :
    s.runScl c k0 i x =
      s.modCore c fun k => k.setLc (x.rd % 4) (k0.s x.rs1 + BitVec.ofInt 32 (sext 17 x.imm)) := by
  simp [State.runScl, hx]

theorem runScl_lend (s : State) (c : Nat) (k0 : Core) (i : Nat) {x : SclSlot} (hx : x.op = 0x29) :
    s.runScl c k0 i x = s.modCore c fun k => k.setLc (x.rd % 4)
      (if 1 < (k0.lc (x.rd % 4)).toNat then k0.lc (x.rd % 4) - 1#32 else 0#32) := by
  simp [State.runScl, hx]

/-- What RDSYS does to the core that reads v with the latches of r: the latches, then S[RD] (R57). -/
def Core.readSys (k : Core) (rd : Nat) (v : Word) (r : Scalar) : Core :=
  ({ k with sc := { k.sc with tickHi := r.tickHi, stepHi := r.stepHi } } : Core).setS rd v

theorem runScl_rdsys (s : State) (c : Nat) (k0 : Core) (i : Nat) {x : SclSlot} (hx : x.op = 0x30) :
    s.runScl c k0 i x =
      s.modCore c fun k => k.readSys x.rd (s.rdsys c k0 x.imm).1 (s.rdsys c k0 x.imm).2 := by
  simp [State.runScl, hx, Core.readSys]

/-! ### The arithmetic rows -/

theorem aluRows_scl : aluRows.map (fun r => (r.1, r.2.1)) = rowsScl.take 19 := rfl

theorem alu_of_aluRows {row : (Nat → Instr) × Nat × (Word → Word → Nat → Word)} (hr : row ∈ aluRows) :
    alu row.2.1 = row.2.2 := by
  have h : aluRows.map (fun r => alu r.2.1) = aluRows.map (fun r => r.2.2) := rfl
  exact List.map_inj_left.mp h row hr

theorem aluRows_op : ∀ row ∈ aluRows, 0 < row.2.1 ∧ row.2.1 < 0x18 := by decide

theorem exec_aluRow (s : State) (c : Nat) {row : (Nat → Instr) × Nat × (Word → Word → Nat → Word)}
    (hr : row ∈ aluRows) : exec (row.1 c) s = issueScl c row.2.1 s := by
  refine exec_scl s c (row.1, row.2.1) (List.mem_of_mem_take (i := 19) ?_)
  rw [← aluRows_scl]
  exact List.mem_map_of_mem hr

/-! ### RDSYS (Table 03-7) -/

/-- The value that RDSYS reads. -/
theorem rdsys_value (s : State) (c : Nat) : ∀ i, (s.rdsys c (s.core c) i).1 = sysValue s c i
  | 0 | 1 | 2 | 3 | 4 | 5 | 6 | 7 | 8 | 9 | 10 => rfl
  | _ + 11 => rfl

theorem rdsys_tickHi (s : State) (c : Nat) (k : Core) :
    ∀ i, (s.rdsys c k i).2.tickHi = if i = 0 then BitVec.ofNat 32 (s.scr.now >>> 32) else k.sc.tickHi
  | 0 | 1 | 2 | 3 | 4 | 5 | 6 | 7 | 8 | 9 | 10 => rfl
  | _ + 11 => rfl

theorem rdsys_stepHi (s : State) (c : Nat) (k : Core) :
    ∀ i, (s.rdsys c k i).2.stepHi = if i = 2 then BitVec.ofNat 32 (bits k.pnl.step 47 32) else k.sc.stepHi
  | 0 | 1 | 2 | 3 | 4 | 5 | 6 | 7 | 8 | 9 | 10 => rfl
  | _ + 11 => rfl

/-- The matrix and the vector slot of the same bundle do not change what RDSYS reads. -/
theorem rdsys_atScalar (s : State) (c : Nat) (k : Core) (i : Nat) : (s.atScalar c).rdsys c k i = s.rdsys c k i := by
  have h := (atScalar_kept s c).toAround
  simp only [State.rdsys, State.bay, h.scr, h.coord, atScalar_bays]

theorem Core.s_readSys (k : Core) (rd : Nat) (v : Word) (r : Scalar) (n : Nat) :
    (k.readSys rd v r).s n = if n = rd ∧ n ≠ 0 then v else k.s n :=
  Core.s_setS_read _ _ _ _

@[simp] theorem Core.readSys_tickHi (k : Core) (rd : Nat) (v : Word) (r : Scalar) :
    (k.readSys rd v r).sc.tickHi = r.tickHi :=
  Core.setS_tickHi _ _ _

@[simp] theorem Core.readSys_stepHi (k : Core) (rd : Nat) (v : Word) (r : Scalar) :
    (k.readSys rd v r).sc.stepHi = r.stepHi :=
  Core.setS_stepHi _ _ _

/-! ### Branches (R58) -/

theorem branchRows_scl : branchRows.map (fun r => (r.1, r.2.1)) = (rowsScl.drop 21).take 8 := rfl

theorem taken_of_branchRows {row : (Nat → Instr) × Nat × (Word → Word → Bool)} (hr : row ∈ branchRows) :
    taken row.2.1 = row.2.2 := by
  have h : branchRows.map (fun r => taken r.2.1) = branchRows.map (fun r => r.2.2) := rfl
  exact List.map_inj_left.mp h row hr

theorem branchRows_op : ∀ row ∈ branchRows, 0x20 ≤ row.2.1 ∧ row.2.1 ≤ 0x27 := by decide

theorem exec_branchRow (s : State) (c : Nat) {row : (Nat → Instr) × Nat × (Word → Word → Bool)}
    (hr : row ∈ branchRows) : exec (row.1 c) s = issueScl c row.2.1 s := by
  refine exec_scl s c (row.1, row.2.1) (List.mem_of_mem_drop (i := 21) (List.mem_of_mem_take (i := 8) ?_))
  rw [← branchRows_scl]
  exact List.mem_map_of_mem hr

theorem bits_low11 (w : Nat) : bits w 10 0 = w % 2048 := by
  simp [bits]

theorem branchTo_branch (k : Core) (i : Nat) {x : SclSlot} (hx : x.op ≠ 0x29) :
    branchTo k i x = if taken x.op (k.s x.rs1) (k.s x.rs2) then
      (if x.op = 0x27 then (k.s x.rs1).toNat % 2048 else x.imm % 2048) else i + 2 := by
  simp [branchTo, bits_low11, hx]

theorem branchTo_lend (k : Core) (i : Nat) {x : SclSlot} (hx : x.op = 0x29) :
    branchTo k i x = if 1 < (k.lc (x.rd % 4)).toNat then x.imm % 2048 else i + 2 := by
  simp [branchTo, bits_low11, hx]

/-- After a branch that issues its delay bundle is next, and the target comes after that. -/
theorem afterBundle_branch {s : State} {c : Nat} (h : s.issues c = true)
    (hb : isBranch (s.core c).atIssue.scl.op = true) :
    let k := s.core c
    let is := ((s.afterBundle c).core c).is
    is.delay = true ∧ is.next = k.bundleIndex + 1 ∧ is.eligible = k.is.clk + 1 + k.atIssue.run ∧
      is.target = branchTo k k.bundleIndex k.atIssue.scl := by
  obtain ⟨hdelay, hmark⟩ := branch_of_issues h hb
  obtain ⟨hnext, hd, htarget, helig, _, _⟩ := afterBundle_point s c
  rw [hdelay] at hnext
  rw [hmark] at helig
  exact ⟨hd.trans hb, hnext, helig, htarget⟩

/-- A branch row writes no S register, but for the return index of JAL. -/
theorem afterBundle_branch_s {s : State} {c : Nat}
    (hx : 0x20 ≤ (s.core c).atIssue.scl.op ∧ (s.core c).atIssue.scl.op ≤ 0x27) (n : Nat) :
    let k := s.core c
    let x := k.atIssue.scl
    ((s.afterBundle c).core c).s n =
      if x.op = 0x26 ∧ n = x.rd ∧ n ≠ 0 then BitVec.ofNat 32 (k.bundleIndex + 2) else k.s n := by
  intro k x
  by_cases hj : x.op = 0x26
  · rw [Core.s_congr (afterBundle_sc_of (runScl_jal _ _ _ _ hj)), Core.s_setS_read, atScalar_s]
    simp [hj, x, k]
  · have hsc := afterBundle_sc s c
    rw [runScl_branch _ _ _ _ hx hj] at hsc
    rw [Core.s_congr hsc, atScalar_s]
    simp [hj, k]

/-! ### A bundle of NOPs (R48) -/

theorem runMat_nop (s : State) (c : Nat) (k0 : Core) {x : MatSlot} (hx : x.mop = 0) : s.runMat c k0 x = s := by
  simp [State.runMat, hx]

theorem runVec_nop (s : State) (c : Nat) (k0 : Core) (i : Nat) {x : VecSlot} (hx : x.vop = 0) :
    s.runVec c k0 i x = s := by
  simp [State.runVec, hx, vform]

theorem runScl_nop (s : State) (c : Nat) (k0 : Core) (i : Nat) {x : SclSlot} (hx : x.op = 0) :
    s.runScl c k0 i x = s := by
  simp [State.runScl, hx]

theorem runLms_nop (s : State) (c : Nat) (k0 : Core) (g : Bool) {x : LmsSlot} (hx : x.lop = 0) :
    s.runLms c k0 g x = s := by
  simp [State.runLms, hx]

theorem runCtl_nop (s : State) (c : Nat) (k0 : Core) {x : CtlSlot} (hx : x.cop = 0) : s.runCtl c k0 x = s := by
  simp [State.runCtl, hx]

/-- Every slot of the bundle holds NOP, and it carries no mark and no gather masks. -/
structure Bundle.Idle (b : Bundle) : Prop where
  scl : b.scl.op = 0
  mat : b.mat.mop = 0
  vec : b.vec.vop = 0
  lms : b.lms.lop = 0
  ctl : b.ctl.cop = 0
  mark : b.mark = false
  masks : b.masks = none

theorem runSlots_idle (s : State) (c : Nat) {b : Bundle} (hb : b.Idle) (i : Nat) : s.runSlots c b i = s := by
  simp only [State.runSlots, runMat_nop _ _ _ hb.mat, runVec_nop _ _ _ _ hb.vec, runScl_nop _ _ _ _ hb.scl, hb.masks,
    runLms_nop _ _ _ _ hb.lms, runCtl_nop _ _ _ hb.ctl]

theorem bundleTokens_idle {b : Bundle} (hb : b.Idle) : bundleTokens b = 0 := by
  simp [bundleTokens, matRows, hb.scl, hb.mat, hb.vec]

/-- A bundle of NOPs only moves the issue point on. -/
theorem runBundle_idle (s : State) (c : Nat) {b : Bundle} (hb : b.Idle) (i : Nat) :
    s.runBundle c b i false = s.modCore c fun k => (k.advance (s.core c) b i).issued b := by
  simp only [State.runBundle, runSlots_idle s c hb, hb.mark, Bool.false_and, Bool.false_eq_true, if_false]

theorem issued_advance_idle (k k0 : Core) {b : Bundle} (hb : b.Idle) (i : Nat) :
    ∃ is', (k.advance k0 b i).issued b = { k with is := is' } ∧ is'.clk = k.is.clk ∧ is'.wait = k.is.wait ∧
      is'.stopped = k.is.stopped ∧ is'.tok = k.is.tok :=
  ⟨_, rfl, rfl, rfl, rfl, by simp [Core.advance, bundleTokens_idle hb]⟩

theorem afterBundle_idle (s : State) (c : Nat) (hb : (s.core c).atIssue.Idle) :
    ∃ is', s.afterBundle c = s.setCore c { s.core c with is := is' } ∧ is'.clk = (s.core c).is.clk ∧
      is'.wait = (s.core c).is.wait ∧ is'.stopped = (s.core c).is.stopped ∧ is'.tok = (s.core c).is.tok := by
  obtain ⟨ps, hk⟩ := takePorts_core (s.core c) (tryPorts (s.core c) (s.core c).atIssue (s.cyc c)).won
  obtain ⟨is', hi, hkept⟩ := issued_advance_idle { s.core c with is := { (s.core c).is with ports := ps } }
    ((s.ported c).core c) hb (s.core c).bundleIndex
  refine ⟨is', ?_, hkept⟩
  rw [State.afterBundle, runBundle_idle _ _ hb]
  generalize (s.ported c).core c = k0 at hi
  rw [State.ported, hk, State.modCore_setCore, hi]

theorem exec_nop_idle {s : State} {c : Nat} (h : s.issues c = true) (hb : (s.core c).atIssue.Idle) :
    exec (.nop c) s = .next (s.afterBundle c) :=
  exec_row h rfl (by simp [someNop, hb.scl])

/-! ### The settled statements -/

/-- Settles O1: every bundle row runs the bundle at the issue point whole, and a bundle of NOPs changes nothing but
where issue stands. -/
theorem bundleIssuePoint : Obligations.bundle_issue_point := by
  unfold Obligations.bundle_issue_point
  refine ⟨fun row hr s c h hp => ?_, fun s c h => ?_⟩
  · obtain ⟨hnext, hdelay, _, helig, hpc, hpcd⟩ := afterBundle_point s c
    exact ⟨_, exec_bundleRow_issues h hr hp, hnext, hdelay, helig, hpc, hpcd⟩
  · intro k b hscl hmat hvec hlms hctl hmark
    have hb : b.Idle := ⟨hscl, hmat, hvec, hlms, hctl, hmark, atIssue_masks k⟩
    obtain ⟨is', ht, hrest⟩ := afterBundle_idle s c hb
    exact ⟨is', (exec_nop_idle h hb).trans (congrArg _ ht), hrest⟩

/-- Settles O3: the scalar slot writes its result to the scalar unit that the other slots leave as it is, and RDSYS
reads what stood there before the bundle. -/
theorem scalarResults : Obligations.scalar_results := by
  unfold Obligations.scalar_results
  refine ⟨fun row hr s c h ho => ?_, fun s c h ho => ?_⟩
  · intro k x
    have hop : 0 < x.op ∧ x.op < 0x18 := ho ▸ aluRows_op row hr
    have hsc := afterBundle_sc_of (runScl_alu (s.atScalar c) c k k.bundleIndex hop)
    refine ⟨_, exec_scl_issues h (exec_aluRow s c hr) ho, ?_, fun n => ?_⟩
    · rw [hsc, Core.setS_lc, ((atScalar_kept s c).core c).sc]
    · rw [Core.s_congr hsc, Core.s_setS_read, atScalar_s, ho, alu_of_aluRows hr]
  · intro k x
    have hsc := afterBundle_sc_of (runScl_rdsys (s.atScalar c) c k k.bundleIndex ho)
    rw [rdsys_atScalar] at hsc
    refine ⟨_, exec_scl_issues h rfl ho, fun n => ?_, ?_, ?_⟩
    · rw [Core.s_congr hsc, Core.s_readSys, atScalar_s, rdsys_value]
    · rw [hsc, Core.readSys_tickHi, rdsys_tickHi]
    · rw [hsc, Core.readSys_stepHi, rdsys_stepHi]

/-- Settles O4: a branch that issues is neither marked nor in a delay bundle, so its delay bundle is next, and a delay
bundle holds no branch, so issue goes on at the target. -/
theorem branchesAndLoops : Obligations.branches_and_loops := by
  unfold Obligations.branches_and_loops
  refine ⟨fun row hr s c h ho => ?_, fun s c h => ⟨fun ho => ?_, fun ho => ?_⟩, fun row hr s c h hp hd => ?_⟩
  · have hop : 0x20 ≤ (s.core c).atIssue.scl.op ∧ (s.core c).atIssue.scl.op ≤ 0x27 := ho ▸ branchRows_op row hr
    obtain ⟨hdelay, hnext, helig, htarget⟩ := afterBundle_branch h (by simp [isBranch, hop])
    rw [branchTo_branch _ _ (by omega), ho, taken_of_branchRows hr, ← ho] at htarget
    exact ⟨_, exec_scl_issues h (exec_branchRow s c hr) ho, hdelay, hnext, helig, htarget, afterBundle_branch_s hop⟩
  · have hsc := afterBundle_sc_of (runScl_lset (s.atScalar c) c (s.core c) (s.core c).bundleIndex ho)
    refine ⟨_, exec_scl_issues h rfl ho, fun n => ?_, fun m => ?_⟩
    · rw [Core.s_congr hsc, Core.s_setLc, atScalar_s]
    · rw [Core.lc_congr hsc, Core.lc_setLc, atScalar_lc]
  · have hsc := afterBundle_sc_of (runScl_lend (s.atScalar c) c (s.core c) (s.core c).bundleIndex ho)
    obtain ⟨hdelay, hnext, _, htarget⟩ := afterBundle_branch h (by rw [ho]; rfl)
    rw [branchTo_lend _ _ ho] at htarget
    refine ⟨_, exec_scl_issues h rfl ho, fun n => ?_, fun m => ?_, hdelay, hnext, htarget⟩
    · rw [Core.s_congr hsc, Core.s_setLc, atScalar_s]
    · rw [Core.lc_congr hsc, Core.lc_setLc, atScalar_lc]
      by_cases hm : m = (s.core c).atIssue.scl.rd % 4
      · subst hm; rfl
      · simp [hm]
  · obtain ⟨hnext, hdelay, _, helig, _, _⟩ := afterBundle_point s c
    have hbr : isBranch (s.core c).atIssue.scl.op = false := by
      rw [Bool.eq_false_iff]
      intro hb
      simp [(branch_of_issues h hb).1] at hd
    exact ⟨_, exec_bundleRow_issues h hr hp, hnext.trans (by simp [hd]), hdelay.trans hbr, helig⟩

end Sys2Proof.Machine
end

