-- ==== Sys2Proof/Proofs/BlockClose.lean ====
section
/-!
SUPPORT. What the close of a block leaves in each accumulator, what a product with INIT opens, and the settled statement
on canonical accumulation (R116 to R122).
-/

namespace Sys2Proof.Machine

/-! ### The sign of a zero (R120) -/

/-- A nonzero exponent field decodes to an infinity, a NaN or a magnitude of at least 2^23. -/
theorem fmt32_decode_isNegZero_iff (n : Nat) :
    (fmt32.decode n).isNegZero = true ↔ bit n 31 = true ∧ n >>> 23 % 256 = 0 ∧ n % 8388608 = 0 := by
  unfold FFmt.decode
  simp only [fmt32, Nat.reducePow, Nat.reduceAdd, Nat.reduceSub, beq_iff_eq]
  generalize n >>> 23 % 256 = ef, n % 8388608 = m, bit n 31 = neg
  by_cases htop : ef = 255
  · by_cases hm : m = 0 <;> simp [htop, hm, FVal.isNegZero]
  · by_cases hsub : ef = 0 <;> simp [htop, hsub, FVal.isNegZero]

theorem dec32_isNegZero_iff (x : Word) : (dec32 x).isNegZero = true ↔ x = 0x80000000#32 := by
  have hx := x.isLt
  rw [dec32, fmt32_decode_isNegZero_iff, bit, Nat.shiftRight_eq_div_pow, Nat.shiftRight_eq_div_pow, beq_iff_eq]
  constructor
  · rintro ⟨hneg, hexp, hmant⟩
    refine BitVec.eq_of_toNat_eq ?_
    simp only [BitVec.toNat_ofNat]
    omega
  · rintro rfl
    decide

/-! ### The close of one accumulator (R119, R121, R122) -/

theorem closeCell_nil (rank sw sa pad : Nat) (int : Bool) (acc : Word) :
    closeCell rank int sw sa pad acc [] = acc := rfl

section
variable {rank pad : Nat} {int : Bool} {ps : List FVal} (sw sa : Nat) (acc : Word) (hps : ps ≠ [])
include hps

theorem closeCell_int (hint : int = true) : closeCell rank int sw sa pad acc ps = closeInt acc ps := by
  simp [closeCell, hps, hint]

theorem closeCell_rank_one (hint : int ≠ true) (hrank : rank = 1) :
    closeCell rank int sw sa pad acc ps = close16 acc (ps ++ List.replicate pad (.fin false 0 0)) := by
  simp [closeCell, hps, hint, hrank]

theorem closeCell_short (hint : int ≠ true) (hrank : rank ≠ 1) :
    closeCell rank int sw sa pad acc ps = closeShort acc (ps ++ List.replicate pad (.fin false 0 0)) sw sa := by
  simp [closeCell, hps, hint, hrank]

end

theorem closeShort_nan_scale (acc : Word) (ps : List FVal) {sw sa : Nat} (h : sw = 255 ∨ sa = 255) :
    closeShort acc ps sw sa = nan32 := by
  simp [closeShort, h]

/-- R119 with R120: the pattern of an FP32 accumulator that is -0 is 0x80000000 alone. -/
theorem closeShort_scaled (acc : Word) (ps : List FVal) {sw sa : Nat} (h : ¬(sw = 255 ∨ sa = 255)) :
    closeShort acc ps sw sa =
      let z := fscale ((sw : Int) + sa - 254) (exactSum ps)
      let r := rne32 (fadd (dec32 acc) z)
      if r = 0x80000000#32 ∧ ¬(acc = 0x80000000#32 ∧ z.isNegZero = true) then 0#32 else r := by
  simp [closeShort, h, ← dec32_isNegZero_iff acc, imp_iff_not_or]

/-! ### The close of a bank -/

theorem Bank.close_acc_getD (b : Bank) (pad : Nat) {i j : Nat} (hi : i < 32) (hj : j < 32) :
    (b.close pad).acc.getD (32 * i + j) 0#32 =
      closeCell b.rank b.int (b.sw.getD i 127) (b.sa.getD j 127) pad (b.acc.getD (32 * i + j) 0#32)
        (cellProducts b.opn i j) := by
  have hrow : (32 * i + j) / 32 = i := by omega
  have hcol : (32 * i + j) % 32 = j := by omega
  have hlt : 32 * i + j < 1024 := by omega
  simp [Bank.close, upto, List.getD, hrow, hcol, hlt]

/-! ### The block that a product with INIT opens (R89, R90) -/

theorem lt_of_tagOf_eq_some {f : Nat} {t : Tag} (h : tagOf f = some t) : f < 15 := by
  by_contra hf
  obtain ⟨n, rfl⟩ := Nat.exists_eq_add_of_le' (not_lt.mp hf)
  cases h

/-- Table 04-1: which tags have INT32 accumulators, which have rank 1, and that no rank is above 8. -/
theorem tagOf_rows : ∀ f < 15, ∀ t ∈ tagOf f,
    (t.integer = true ↔ f = 0x6 ∨ f = 0xC) ∧ (t.k = 1 ↔ f = 0x0 ∨ f = 0x1) ∧ t.k ≤ 8 := by decide

theorem effRank_eq_one_iff (t : Tag) (axis : Nat) : effRank t axis = 1 ↔ t.k = 1 := by
  unfold effRank
  split <;> simp_all

theorem effRank_le (t : Tag) (axis : Nat) : effRank t axis ≤ max 4 t.k := by
  unfold effRank
  split <;> omega

/-- A product that opens a block and does not fill it keeps the bank's type and accumulators. -/
theorem addProduct_opens {t : Tag} {rk fmt : Nat} {tr : Bool} {p : Prd} {b : Bank} {l : Latch}
    (hb : b.phase = 0) (hrk : rk < 32) :
    let r := (addProduct t rk fmt tr p b l).1
    r.int = b.int ∧ r.rank = rk ∧ r.acc = b.acc ∧ r.opn = [p] ∧
      (t.scaled = false → r.sw = List.replicate 32 127 ∧ r.sa = List.replicate 32 127) := by
  have hopen : ¬ 32 ≤ rk := by omega
  refine ⟨?_, ?_, ?_, ?_, fun hs => ⟨?_, ?_⟩⟩ <;> simp [addProduct, *]

/-- R89, R90, R97: with MA_CTRL.ACCM = 0, INIT starts the bank anew and the product opens its first block. -/
theorem mmaSum_init {x : MatSlot} {t : Tag} {y : MmaIn} {b : Bank} {l : Latch} (hx : x.init = true) :
    mmaSum false x t y b l =
      let rk := effRank t x.axis
      addProduct t rk x.fmt (x.axis == 1) ⟨rk, y.w, activation t rk y.act, y.mask⟩ (b.start t.integer)
        (mmaLatch x y l) := by
  simp [mmaSum, hx]

/-- Settles O13: each accumulator by the cases of its close, the opened block by the rows of Table 04-1. -/
theorem blockClose : Obligations.block_close := by
  unfold Obligations.block_close
  refine ⟨fun b pad i j hi hj => ?_, fun tag x y b l htag hinit => ?_⟩
  · refine ⟨rfl, rfl, ?_⟩
    rw [Bank.close_acc_getD b pad hi hj]
    split
    case isTrue hnone => rw [hnone, closeCell_nil]
    case isFalse hps =>
      split
      case isTrue hint => rw [closeCell_int _ _ _ hps hint, closeInt]
      case isFalse hint =>
        split
        case isTrue hrank => rw [closeCell_rank_one _ _ _ hps hint hrank]
        case isFalse hrank =>
          rw [closeCell_short _ _ _ hps hint hrank]
          split
          case isTrue hnan => rw [closeShort_nan_scale _ _ hnan]
          case isFalse hscale => rw [closeShort_scaled _ _ hscale]
  · obtain ⟨hint, hone, hk⟩ := tagOf_rows x.fmt (lt_of_tagOf_eq_some htag) tag htag
    have hrk : effRank tag x.axis < 32 := by
      have := effRank_le tag x.axis
      omega
    rw [mmaSum_init hinit]
    obtain ⟨rint, rrank, racc, ropn, rscales⟩ := addProduct_opens (b := b.start tag.integer) rfl hrk
    refine ⟨?_, ?_, rscales, racc, ?_⟩
    · rw [rint]
      exact hint
    · rw [rrank, effRank_eq_one_iff]
      exact hone
    · rw [ropn, List.length_singleton]

end Sys2Proof.Machine
end

