-- ==== Sys2Proof/Proofs/StreamRegisters.lean ====
section
/-!
SUPPORT. What a job fault and a violation leave of a core, how a stream engine stops and goes on, and the settled
statement on the instructions that work on an engine's own registers (R225 to R239, R250).
-/

namespace Sys2Proof.Machine

/-! ### The entry that a map holds after a removal and after an insertion -/

theorem afind_adel {α : Type} (m : AMap α) (j k : Nat) :
    afind (adel m k) j = if j = k then none else afind m j := by
  induction m with
  | nil => simp [adel, afind]
  | cons x m ih =>
    obtain ⟨i, v⟩ := x
    by_cases hi : i = k
    · subst hi
      by_cases hj : i = j
      · subst hj
        simpa [adel] using ih
      · simp [adel, afind, ih, hj, Ne.symm hj]
    · by_cases hj : i = j
      · subst hj
        simp [adel, afind, hi]
      · simp [adel, afind, ih, hi, hj]

theorem afind_ains {α : Type} {m : AMap α} {k : Nat} (hm : afind m k = none) (v : α) (j : Nat) :
    afind (ains m k v) j = if j = k then some v else afind m j := by
  induction m with
  | nil => simp [ains, afind, eq_comm (a := j)]
  | cons x m ih =>
    obtain ⟨i, w⟩ := x
    obtain ⟨hi, hm⟩ : i ≠ k ∧ afind m k = none := by
      by_cases hi : i = k <;> simp_all [afind]
    by_cases hl : k < i
    · simp [ains, hl, afind, eq_comm (a := j)]
    · by_cases hj : i = j
      · subst hj
        simp [ains, hl, afind, hi]
      · simp [ains, hl, afind, hj, ih hm]

theorem afind_aput {α : Type} (m : AMap α) (k : Nat) (v : α) (j : Nat) :
    afind (aput m k v) j = if j = k then some v else afind m j := by
  rw [aput, afind_ains (by simp [afind_adel]), afind_adel]
  split <;> rfl

/-! ### A job fault changes no core (R372) -/

/-- What every step of a fold keeps, the fold keeps. -/
theorem foldl_keeps {σ α β : Type} {p : σ → β} {f : σ → α → σ} (hf : ∀ t x, p (f t x) = p t) (l : List α) (s : σ) :
    p (l.foldl f s) = p s := by
  induction l generalizing s with
  | nil => rfl
  | cons x l ih => exact (ih (f s x)).trans (hf s x)

theorem State.core_portOut (s : State) (p i n : Nat) (o : Out) (d : Nat) : (s.portOut p i n o).core d = s.core d := by
  unfold State.portOut
  extract_lets x
  split <;> rfl

theorem State.core_broadcastFault (s : State) (n r d : Nat) : (s.broadcastFault n r).core d = s.core d := by
  unfold State.broadcastFault
  split
  · rfl
  · exact foldl_keeps (p := fun t : State => t.core d) (fun t _ => t.core_portOut _ _ _ _ d) _ _

@[simp] theorem State.core_raiseFault (s : State) (r c a d : Nat) : (s.raiseFault r c a).core d = s.core d := by
  unfold State.raiseFault
  split
  · rfl
  · split
    · exact State.core_broadcastFault _ _ _ _
    · split <;> rfl

/-! ### A violation stops its core and keeps the engines (R67, R68) -/

@[simp] theorem Core.logFault_se (k : Core) (cyc code slot index addr : Nat) :
    (k.logFault cyc code slot index addr).se = k.se := by
  unfold Core.logFault
  extract_lets info
  split
  · rfl
  · split <;> rfl

theorem State.violate_stopped (s : State) (c code slot addr cnt : Nat) :
    ((s.violate c code slot addr cnt).core c).is.stopped = true := by
  simp [State.violate]

theorem State.violate_se (s : State) (c code slot addr cnt : Nat) :
    ((s.violate c code slot addr cnt).core c).se = (s.core c).se := by
  simp [State.violate]

/-! ### An engine that stops (R225, R250) -/

theorem Core.engine_congr {k l : Core} (h : k.se = l.se) (n : Nat) : k.engine n = l.engine n := by
  simp only [Core.engine, h]

@[simp] theorem Core.engine_setEngine_self (k : Core) (n : Nat) (e : Engine) : (k.setEngine n e).engine n = e := by
  simp [Core.engine]

theorem Core.settleSeg_se (k : Core) (cyc n : Nat) : (k.settleSeg cyc n).se = k.se := by
  unfold Core.settleSeg
  extract_lets ls
  split <;> rfl

theorem Core.settleSegs_se (k : Core) (cyc : Nat) : (k.settleSegs cyc).se = k.se :=
  foldl_keeps (fun k n => k.settleSeg_se cyc n) _ _

theorem Core.stopEngine_idle {k : Core} {n : Nat} (h : (k.engine n).run ≠ 1) (cyc : Nat) : k.stopEngine n cyc = k := by
  simp [Core.stopEngine, h]

theorem Core.engine_stopEngine {k : Core} {n : Nat} (h : (k.engine n).run = 1) (cyc : Nat) :
    (k.stopEngine n cyc).engine n =
      { k.engine n with run := if k.tags n = 0 then 0 else 2, nextAt := cyc, xfer := none, wait := none, fence := false,
                        holds := [], wordRows := [] } := by
  simp [Core.stopEngine, h, Core.engine_congr (Core.settleSegs_se _ _)]

/-- Withdrawing the wait from its home leaves the cores as they are. -/
theorem State.core_stopEngine (s : State) (c n : Nat) :
    (s.stopEngine c n).core c = (s.core c).stopEngine n (s.cyc c) := by
  rw [← s.core_modCore_self c fun k => k.stopEngine n (s.cyc c)]
  unfold State.stopEngine
  extract_lets waiting s1
  split <;> rfl

/-- An engine that has stopped is not RUNNING, and its registers are as they were. -/
theorem State.stopEngine_engine (s : State) (c n : Nat) :
    let g := (s.core c).engine n
    let e := ((s.stopEngine c n).core c).engine n
    e.run ≠ 1 ∧ e.ar = g.ar ∧ e.bind = g.bind ∧ e.lp = g.lp := by
  intro g e
  by_cases h : g.run = 1
  · have he : e = _ := (congrArg (·.engine n) (s.core_stopEngine c n)).trans (Core.engine_stopEngine h _)
    rw [he]
    refine ⟨?_, rfl, rfl, rfl⟩
    show (if _ then 0 else 2) ≠ 1
    split <;> decide
  · have he : e = g := congrArg (·.engine n) ((s.core_stopEngine c n).trans (Core.stopEngine_idle h _))
    rw [he]
    exact ⟨h, rfl, rfl, rfl⟩

/-- R250: a violation of Table 10-6 stops the engine and its core; the engine's registers are as they were. -/
theorem State.seViol_engine (s : State) (c n row slot addr : Nat) :
    let g := (s.core c).engine n
    let k := (s.seViol c n row slot addr).core c
    k.streamStopped n ∧ (k.engine n).ar = g.ar ∧ (k.engine n).bind = g.bind ∧ (k.engine n).lp = g.lp := by
  intro g k
  obtain ⟨hrun, hregs⟩ := s.stopEngine_engine c n
  have he : k.engine n = ((s.stopEngine c n).core c).engine n := Core.engine_congr (State.violate_se _ _ _ _ _ _) n
  rw [Core.streamStopped, he]
  exact ⟨⟨State.violate_stopped _ _ _ _ _ _, hrun⟩, hregs⟩

/-! ### An engine that goes on (R227) -/

theorem State.seGoto_eq (s : State) (c n : Nat) (g : Engine) {j : Nat} (hj : j ≤ 31) :
    s.seGoto c n g j = s.modCore c fun k => k.setEngine n { g with pc := j, nextAt := s.cyc c + 1 } := by
  simp [State.seGoto, Nat.not_lt.mpr hj, Nat.min_eq_left hj]

theorem streamWent_seNext (s : State) (c n : Nat) (g : Engine) : streamWent s (s.seNext c n g) c n g := by
  unfold streamWent
  split
  case isTrue hpc => exact s.seGoto_eq c n g hpc
  case isFalse hpc =>
    have hpast : 31 < g.pc + 1 := by omega
    simp only [State.seNext, State.seGoto, gt_iff_lt, hpast, if_true]
    simpa using
      State.seViol_engine (s.modCore c fun k => k.setEngine n { g with pc := min (g.pc + 1) 31, nextAt := s.cyc c + 1 })
        c n 4 6 31

theorem siTarget_le (w : Nat) : siTarget w ≤ 31 :=
  Nat.le_of_lt_succ (Nat.mod_lt _ (by decide))

/-! ### Address and loop registers -/

theorem addA_lt (a : Nat) (z : Int) : addA a z < 2 ^ 64 := by
  unfold addA wrapInt
  omega

theorem Engine.arg_setAr (e : Engine) (d v r : Nat) :
    (e.setAr d v).arg r = if r = d then v % 2 ^ 64 else e.arg r :=
  aget_aput 0 e.ar r d _

theorem Engine.arg_setAr_addA (e : Engine) (d a : Nat) (z : Int) (r : Nat) :
    (e.setAr d (addA a z)).arg r = if r = d then addA a z else e.arg r := by
  rw [Engine.arg_setAr, Nat.mod_eq_of_lt (addA_lt a z)]

/-! ### The instruction at which an engine stands -/

theorem exec_send (s : State) (c n : Nat) : exec (.send c n) s = execSend c n s := rfl
theorem exec_sbase (s : State) (c n : Nat) : exec (.sbase c n) s = execSbase c n s := rfl
theorem exec_sldi (s : State) (c n : Nat) : exec (.sldi c n) s = execSldi c n s := rfl
theorem exec_sadd (s : State) (c n : Nat) : exec (.sadd c n) s = execSadd c n s := rfl
theorem exec_swrap (s : State) (c n : Nat) : exec (.swrap c n) s = execSwrap c n s := rfl
theorem exec_sread (s : State) (c n : Nat) : exec (.sread c n) s = execSread c n s := rfl
theorem exec_swrite (s : State) (c n : Nat) : exec (.swrite c n) s = execSwrite c n s := rfl
theorem exec_sgath (s : State) (c n : Nat) : exec (.sgath c n) s = execSgath c n s := rfl
theorem exec_sloop (s : State) (c n : Nat) : exec (.sloop c n) s = execSloop c n s := rfl
theorem exec_snext (s : State) (c n : Nat) : exec (.snext c n) s = execSnext c n s := rfl
theorem exec_swait (s : State) (c n : Nat) : exec (.swait c n) s = execSwait c n s := rfl
theorem exec_spost (s : State) (c n : Nat) : exec (.spost c n) s = execSpost c n s := rfl
theorem exec_srate (s : State) (c n : Nat) : exec (.srate c n) s = execSrate c n s := rfl

/-- Every row of Table 10-2 waits until its instruction is the engine's next one. -/
theorem exec_streamRow (s : State) (c n : Nat) :
    ∀ row ∈ streamRows, ∃ f, exec (row.1 c n) s = seInstr c n row.2 s f := by
  simp only [streamRows, List.forall_mem_cons]
  exact ⟨⟨_, exec_send s c n⟩, ⟨_, exec_sbase s c n⟩, ⟨_, exec_sldi s c n⟩, ⟨_, exec_sadd s c n⟩, ⟨_, exec_swrap s c n⟩,
    ⟨_, exec_sread s c n⟩, ⟨_, exec_swrite s c n⟩, ⟨_, exec_sgath s c n⟩, ⟨_, exec_sloop s c n⟩, ⟨_, exec_snext s c n⟩,
    ⟨_, exec_swait s c n⟩, ⟨_, exec_spost s c n⟩, ⟨_, exec_srate s c n⟩, fun _ h => absurd h List.not_mem_nil⟩

theorem run_of_seAt {k : Core} {n op cyc : Nat} (h : k.seAt n op cyc = true) : (k.engine n).run = 1 := by
  simp only [Core.seAt, Bool.and_eq_true, beq_iff_eq] at h
  obtain ⟨⟨⟨⟨⟨hrun, _⟩, _⟩, _⟩, _⟩, _⟩ := h
  exact hrun

theorem seInstr_other {s : State} {c n op : Nat} (hc : c < nCores) (hn : n < 4) (f : State → Engine → Nat → State)
    (h : (s.core c).seAt n op (s.cyc c) = false) : seInstr c n op s f = .next s := by
  simp [seInstr, onUnit, hc, hn, h]

/-- Engine n of core c is g and executes its instruction w in this cycle, which has opcode op. -/
structure StreamRuns (s : State) (c n op : Nat) (g : Engine) (w : Nat) : Prop where
  core_lt : c < nCores
  engine_lt : n < 4
  seAt : (s.core c).seAt n op (s.cyc c) = true
  engine : (s.core c).engine n = g
  word : (s.core c).sInstr n g.pc = w

namespace StreamRuns
variable {s : State} {c n op : Nat} {g : Engine} {w : Nat}

theorem next (h : StreamRuns s c n op g w) (f : State → Engine → Nat → State) :
    seInstr c n op s f = .next (f s g w) := by
  obtain ⟨hc, hn, hat, rfl, rfl⟩ := h
  simp [seInstr, onUnit, hc, hn, hat]

theorem send (h : StreamRuns s c n 0x00 g w) : exec (.send c n) s = .next (s.stopEngine c n) := by
  rw [exec_send, execSend, h.next]

theorem sbase (h : StreamRuns s c n 0x01 g w) :
    exec (.sbase c n) s = .next (s.seNext c n
      { g.setAr (siD w) (addA ((s.core c).htAddr (siH w)) (siImm w)) with bind := aput g.bind (siD w) (siH w) }) := by
  rw [exec_sbase, execSbase, h.next]

theorem sldi (h : StreamRuns s c n 0x02 g w) :
    exec (.sldi c n) s = .next (s.seNext c n
      { g.setAr (siD w) (if siSelA w = 0 then addA 0 (siImm w) else if siSelA w = 1 then g.p0
          else if siSelA w = 2 then g.p1 else g.p1 * 2 ^ 32 + g.p0) with bind := adel g.bind (siD w) }) := by
  rw [exec_sldi, execSldi, h.next]
  simp only [beq_iff_eq]

theorem sadd (h : StreamRuns s c n 0x03 g w) :
    exec (.sadd c n) s = .next (s.seNext c n
      (g.setAr (siD w) (addA (g.arg (siD w)) (if siSelA w = 0 then siImm w
        else if siSelA w = 1 then (g.arg (siS w) : Int) else if siSelA w = 2 then (g.p0 : Int) else (g.p1 : Int))))) := by
  rw [exec_sadd, execSadd, h.next]
  simp only [beq_iff_eq]

/-- R235: the register goes round within the offset, counted from the start of the handle that it is bound to. -/
theorem swrap (h : StreamRuns s c n 0x04 g w) {b : Nat} (hb : g.handle (siD w) = some b) (hpos : 0 < siImm w)
    (hmul : siImm w % 512 = 0) :
    exec (.swrap c n) s = .next (s.seNext c n
      (g.setAr (siD w) ((s.core c).htAddr b +
        addA (g.arg (siD w)) (-((s.core c).htAddr b : Int)) % (siImm w).toNat))) := by
  rw [exec_swrap, execSwrap, h.next]
  have himm : (decide (siImm w ≤ 0) || siImm w % 512 != 0) = false := by
    generalize siImm w = z at *
    simp [hmul, hpos]
  simp only [hb, himm, Bool.false_eq_true, if_false]

theorem swrap_violates (h : StreamRuns s c n 0x04 g w)
    (hbad : g.handle (siD w) = none ∨ siImm w ≤ 0 ∨ siImm w % 512 ≠ 0) :
    ∃ row addr, exec (.swrap c n) s = .next (s.seViol c n row 6 addr) := by
  rw [exec_swrap, execSwrap, h.next]
  cases hb : g.handle (siD w) with
  | none => exact ⟨5, g.pc, rfl⟩
  | some b =>
    have himm : (decide (siImm w ≤ 0) || siImm w % 512 != 0) = true := by
      generalize siImm w = z at *
      simpa [hb] using hbad
    exact ⟨7, g.arg (siD w), by simp only [himm, if_true]⟩

theorem sloop (h : StreamRuns s c n 0x10 g w) :
    exec (.sloop c n) s = .next (s.seNext c n
      { g with lp := aput g.lp (siD w) (if siSelC w = 0 then siVal w else if siSelC w = 1 then g.p0 else g.p1) }) := by
  rw [exec_sloop, execSloop, h.next]
  simp only [beq_iff_eq]

theorem snext_last (h : StreamRuns s c n 0x11 g w) (hle : g.lpc (siD w) ≤ 1) :
    exec (.snext c n) s = .next (s.seNext c n { g with lp := aput g.lp (siD w) 0 }) := by
  rw [exec_snext, execSnext, h.next]
  simp only [not_lt.mpr hle, if_false]

theorem snext_again (h : StreamRuns s c n 0x11 g w) (hlt : 1 < g.lpc (siD w)) :
    exec (.snext c n) s = .next (s.modCore c fun k => k.setEngine n
      { g with lp := aput g.lp (siD w) (g.lpc (siD w) - 1), pc := siTarget w, nextAt := s.cyc c + 1 }) := by
  rw [exec_snext, execSnext, h.next]
  simp only [hlt, if_true, s.seGoto_eq c n _ (siTarget_le w)]

theorem srate (h : StreamRuns s c n 0x1C g w) :
    exec (.srate c n) s = .next (s.seNext c n
      { g with rate := siRate w, burst := siBurst w, tagq := (if siTagq w = 0 then 16 else siTagq w),
               bucket := min g.bucket ((siBurst w + 1) * 8192) }) := by
  rw [exec_srate, execSrate, h.next]
  simp only [beq_iff_eq]

end StreamRuns

/-! ### The settled statement -/

/-- Settles O36: SEND stops the engine, SNEXT that counts down goes to its target, SWRAP that cannot wrap is a violation,
and every other instruction changes the registers that it names, and the engine goes on. -/
theorem streamRegisters : Obligations.stream_registers := by
  unfold Obligations.stream_registers
  intro s c n hc hn k g w cyc
  have runs {op : Nat} (h : k.seAt n op cyc = true) : StreamRuns s c n op g w := ⟨hc, hn, h, rfl, rfl⟩
  refine ⟨fun row hr h => ?other, fun h => ?send, fun h => ?sbase, fun h => ?sldi, fun h => ?sadd,
    fun b h hb hpos hmul => ?swrap, fun h hbad => ?swrapBad, fun h => ?sloop, fun h hle => ?snextLast,
    fun h hlt => ?snextAgain, fun h => ⟨_, (runs h).srate, streamWent_seNext s c n _⟩⟩
  case other =>
    obtain ⟨f, hf⟩ := exec_streamRow s c n row hr
    rw [hf, seInstr_other hc hn f h]
  case send =>
    refine ⟨_, (runs h).send, ?_⟩
    rw [s.core_stopEngine, Core.engine_stopEngine (run_of_seAt h)]
  case sbase =>
    exact ⟨_, _, (runs h).sbase, streamWent_seNext s c n _, rfl, Engine.arg_setAr_addA g _ _ _, afind_aput g.bind _ _⟩
  case sldi =>
    exact ⟨_, _, (runs h).sldi, streamWent_seNext s c n _, rfl, Engine.arg_setAr g _ _,
      fun r => afind_adel g.bind r _⟩
  case sadd =>
    exact ⟨_, _, (runs h).sadd, streamWent_seNext s c n _, rfl, fun r =>
      (Engine.arg_setAr_addA g _ _ _ r).trans (ite_congr rfl (fun hr => by rw [hr]) fun _ => rfl)⟩
  case swrap =>
    exact ⟨_, _, (runs h).swrap hb hpos hmul, streamWent_seNext s c n _, rfl, fun r =>
      (Engine.arg_setAr g _ _ r).trans (ite_congr rfl (fun hr => by rw [hr]) fun _ => rfl)⟩
  case swrapBad =>
    obtain ⟨row, addr, ht⟩ := (runs h).swrap_violates hbad
    obtain ⟨hstop, har, _⟩ := s.seViol_engine c n row 6 addr
    exact ⟨_, ht, hstop, har⟩
  case sloop =>
    exact ⟨_, _, (runs h).sloop, streamWent_seNext s c n _, rfl, fun r => aget_aput 0 g.lp r _ _⟩
  case snextLast =>
    exact ⟨_, _, (runs h).snext_last hle, streamWent_seNext s c n _, rfl, fun r => aget_aput 0 g.lp r _ _⟩
  case snextAgain =>
    refine ⟨_, (runs h).snext_again hlt, ?_⟩
    rw [State.core_modCore_self, Core.engine_setEngine_self]
    exact ⟨rfl, fun r => (aget_aput 0 g.lp r _ _).trans (ite_congr rfl (fun hr => by rw [← hr]) fun _ => rfl)⟩

end Sys2Proof.Machine
end

