-- ==== Sys2Proof/Proofs/Refresh.lean ====
section
/-!
SUPPORT. Reads of a bit after a write of a bit field, what a refresh command can do to the device, and the settled
statement on the refresh windows and the refresh rate of a stack (R295, R296, R301).
-/

namespace Sys2Proof.Machine

/-! ### A bit after a write of a field -/

theorem bit_eq_testBit (w i : Nat) : bit w i = w.testBit i := by
  rw [Nat.testBit_eq_decide_div_mod_eq, bit, Nat.shiftRight_eq_div_pow]
  rfl

theorem bit_mod_two_pow (w : Nat) {k i : Nat} (h : i < k) : bit (w % 2 ^ k) i = bit w i := by
  simp [bit_eq_testBit, h]

/-- A write of a field as a number with the field's value between what lies above it and what lies below. -/
theorem setBits_eq (w v : Nat) {hi lo : Nat} (h : lo ≤ hi + 1) : setBits w hi lo v =
    2 ^ lo * (2 ^ (hi + 1 - lo) * (w >>> (hi + 1)) + v % 2 ^ (hi + 1 - lo)) + w % 2 ^ lo := by
  have hpow : 2 ^ (hi + 1) = 2 ^ lo * 2 ^ (hi + 1 - lo) := by rw [← Nat.pow_add, Nat.add_sub_cancel' h]
  simp only [setBits, Nat.shiftLeft_eq, hpow]
  ring

theorem bit_setBits (w v : Nat) {hi lo : Nat} (h : lo ≤ hi + 1) (i : Nat) :
    bit (setBits w hi lo v) i = if lo ≤ i ∧ i ≤ hi then bit v (i - lo) else bit w i := by
  have hlow : w % 2 ^ lo < 2 ^ lo := Nat.mod_lt _ (Nat.two_pow_pos lo)
  have hval : v % 2 ^ (hi + 1 - lo) < 2 ^ (hi + 1 - lo) := Nat.mod_lt _ (Nat.two_pow_pos _)
  simp only [bit_eq_testBit, setBits_eq w v h, Nat.testBit_two_pow_mul_add _ hlow, Nat.testBit_two_pow_mul_add _ hval,
    Nat.testBit_mod_two_pow, Nat.testBit_shiftRight]
  by_cases hbelow : i < lo
  · simp [hbelow]
  · by_cases hin : i ≤ hi
    · have hfield : i - lo < hi + 1 - lo := by omega
      simp [hbelow, hin, hfield, not_lt.mp hbelow]
    · have habove : ¬ i - lo < hi + 1 - lo := by omega
      have hsame : hi + 1 + (i - lo - (hi + 1 - lo)) = i := by omega
      simp [hbelow, hin, habove, hsame]

@[simp] theorem bit_b2n_zero (b : Bool) : bit (b2n b) 0 = b := by
  cases b <;> rfl

/-- A write of one bit changes that bit alone. -/
theorem bit_setBits_single (w n : Nat) (b : Bool) (i : Nat) :
    bit (setBits w n n (b2n b)) i = if i = n then b else bit w i := by
  rw [bit_setBits w _ (Nat.le_succ n)]
  by_cases h : i = n
  · simp [h]
  · have hout : ¬ (n ≤ i ∧ i ≤ n) := by omega
    rw [if_neg hout, if_neg h]

/-! ### The windows (R295, R296, R301) -/

theorem hbmWindowDue_scheduled {t p : Nat} (doubled : Bool) (h : t % 3840 = 120 * (p % 32)) :
    hbmWindowDue t p doubled = some false := by
  simp [hbmWindowDue, h]

/-- Half a period apart, the two places of a pseudo-channel never coincide. -/
theorem hbmWindowDue_added {t p : Nat} (h : t % 3840 = (1920 + 120 * (p % 32)) % 3840) :
    hbmWindowDue t p true = some true := by
  have hne : (1920 + 120 * (p % 32)) % 3840 ≠ 120 * (p % 32) := by omega
  simp [hbmWindowDue, h, hne]

theorem hbmWindowDue_none {t p : Nat} {doubled : Bool} (h : t % 3840 ≠ 120 * (p % 32))
    (h' : t % 3840 ≠ (1920 + 120 * (p % 32)) % 3840 ∨ doubled = false) : hbmWindowDue t p doubled = none := by
  obtain h' | rfl := h'
  · simp [hbmWindowDue, h, h']
  · simp [hbmWindowDue, h]

/-- The window of pseudo-channel p of stack n is open for the next 120 tk. -/
def State.openHbmWindow (s : State) (n p : Nat) : State :=
  { s with mem := { s.mem with hbmWin := aput s.mem.hbmWin (64 * n + p) (s.refCount + 120) } }

@[simp] theorem State.dreg_openHbmWindow (s : State) (n p off : Nat) :
    (s.openHbmWindow n p).dreg off = s.dreg off := rfl

@[simp] theorem State.openHbmWindow_hbmWin (s : State) (n p : Nat) :
    aget 0 (s.openHbmWindow n p).mem.hbmWin (64 * n + p) = s.refCount + 120 :=
  aget_aput_self 0 _ _ _

section
variable {s : State} {n p : Nat} (hn : n < 12) (hp : p < 64)
include hn hp

theorem exec_hbmRefreshWindow_due {added : Bool}
    (h : hbmWindowDue s.refCount p (bit (s.dreg 0x10008) n) = some added) : exec (.hbmRefreshWindow n p) s =
      .next (if added then (s.openHbmWindow n p).bumpD 0x1000C else s.openHbmWindow n p) := by
  change execHbmRefreshWindow n p s = _
  simp [execHbmRefreshWindow, onUnit, hn, hp, h, State.openHbmWindow, Nat.mul_comm n]

theorem exec_hbmRefreshWindow_idle (h : hbmWindowDue s.refCount p (bit (s.dreg 0x10008) n) = none) :
    exec (.hbmRefreshWindow n p) s = .next s := by
  change execHbmRefreshWindow n p s = _
  simp [execHbmRefreshWindow, onUnit, hn, hp, h]

end

/-- A window of a DDR5 bank set opens at its place in the period, and at no other tick. -/
theorem exec_ddrRefreshWindow (s : State) {ch set : Nat} (hc : ch < 8) (hs : set < 4) :
    exec (.ddrRefreshWindow ch set) s = .next (if s.refCount % 1920 = (480 * set + 60 * ch) % 1920 then
      { s with mem := { s.mem with ddrWin := aput s.mem.ddrWin (4 * ch + set) (s.refCount + 130) } } else s) := by
  change execDdrRefreshWindow ch set s = _
  by_cases h : s.refCount % 1920 = (480 * set + 60 * ch) % 1920 <;>
    simp [execDdrRefreshWindow, onUnit, hc, hs, h, Nat.mul_comm ch]

/-! ### The refresh rate of a stack (R296) -/

/-- Stack n has reported at this tick that it wants the doubled rate (b) or the single one. -/
def State.noteRefRate (s : State) (n : Nat) (b : Bool) : State :=
  { s with mem := { s.mem with refNext := aput s.mem.refNext n (b, s.refCount) } }

@[simp] theorem State.noteRefRate_refNext (s : State) (n : Nat) (b : Bool) :
    afind (s.noteRefRate n b).mem.refNext n = some (b, s.refCount) := by
  simp [State.noteRefRate, afind_aput]

/-- The report of stack n has taken effect. -/
def State.takeRefRate (s : State) (n : Nat) : State :=
  { s with mem := { s.mem with refNext := adel s.mem.refNext n } }

@[simp] theorem State.dreg_takeRefRate (s : State) (n off : Nat) : (s.takeRefRate n).dreg off = s.dreg off := rfl

@[simp] theorem State.takeRefRate_refNext (s : State) (n : Nat) : afind (s.takeRefRate n).mem.refNext n = none := by
  simp [State.takeRefRate, afind_adel]

/-- The stack's bit in HBM_REF.DOUBLE changes to b, and the recorder is told. -/
def State.changeRefRate (s : State) (n : Nat) (b : Bool) : State :=
  (s.setDreg 0x10008 (setBits (s.dreg 0x10008) n n (b2n b))).emit evHbmRefRate none none [n + 16 * b2n b]

@[simp] theorem State.changeRefRate_mem (s : State) (n : Nat) (b : Bool) : (s.changeRefRate n b).mem = s.mem := rfl

theorem State.changeRefRate_recorded (s : State) (n : Nat) (b : Bool) :
    ∃ e ∈ (s.changeRefRate n b).er.q, e.code = evHbmRefRate ∧ e.payload = [n + 16 * b2n b] := by
  simp [State.changeRefRate]

theorem State.changeRefRate_doubled (s : State) (n : Nat) (b : Bool) {m : Nat} (hm : m < 12) :
    bit ((s.changeRefRate n b).dreg 0x10008) m = if m = n then b else bit (s.dreg 0x10008) m := by
  have hreg : (s.changeRefRate n b).dreg 0x10008 = setBits (s.dreg 0x10008) n n (b2n b) % 2 ^ 32 :=
    State.dreg_setDreg_self s _ _
  rw [hreg, bit_mod_two_pow _ (hm.trans (by decide)), bit_setBits_single]

section
variable {s : State} {n : Nat} (hn : n < 12)
include hn

theorem exec_hbmTempReport_hot {deg : Nat} (h : 85 < deg) :
    exec (.hbmTempReport n deg) s = .next (s.noteRefRate n true) := by
  change execHbmTempReport n deg s = _
  simp [execHbmTempReport, onUnit, hn, h, State.noteRefRate]

theorem exec_hbmTempReport_cool {deg : Nat} (h : deg ≤ 82) :
    exec (.hbmTempReport n deg) s = .next (s.noteRefRate n false) := by
  change execHbmTempReport n deg s = _
  have hcold : ¬ 85 < deg := by omega
  simp [execHbmTempReport, onUnit, hn, h, hcold, State.noteRefRate]

variable {b : Bool} {t1 : Nat} (hf : afind s.mem.refNext n = some (b, t1))
include hf

/-- A report takes effect at a period boundary strictly after it, and not before. -/
theorem exec_hbmRefRate_waits (h : s.refCount % 3840 ≠ 0 ∨ s.refCount ≤ t1) : exec (.hbmRefRate n) s = .next s := by
  change execHbmRefRate n s = _
  simp [execHbmRefRate, onUnit, hn, hf, h]

theorem exec_hbmRefRate_takes (h0 : s.refCount % 3840 = 0) (ht : t1 < s.refCount) : exec (.hbmRefRate n) s =
    .next (if bit (s.dreg 0x10008) n = b then s.takeRefRate n else (s.takeRefRate n).changeRefRate n b) := by
  change execHbmRefRate n s = _
  simp only [execHbmRefRate, onUnit, decide_eq_true hn, hf, h0, not_le.mpr ht, bne_self_eq_false, Bool.or_self,
    decide_false, beq_iff_eq, Bool.false_eq_true, if_true, if_false]
  rfl

end

/-! ### The settled statement -/

/-- Settles O40: a window opens at its place in the period and at no other tick; a report waits for the next boundary,
where it sets the stack's own bit, and a change of the bit is recorded. -/
theorem refresh : Obligations.refresh := by
  unfold Obligations.refresh
  intro s n t0
  refine ⟨fun p hn hp ht => ?scheduled, fun p hn hp ht hd => ?added, fun p hn hp ht hd => ?idle,
    fun deg hn h => ?hot, fun deg hn h => ?cool, fun b t1 hn hf h0 ht => ?takes, fun b t1 hn hf h => ?waits,
    fun set hc hs => ⟨fun h => ?opens, fun h => ?shut⟩⟩
  case scheduled => exact exec_hbmRefreshWindow_due hn hp (hbmWindowDue_scheduled _ ht)
  case added =>
    have hdue : hbmWindowDue s.refCount p (bit (s.dreg 0x10008) n) = some true := by rw [hd, hbmWindowDue_added ht]
    exact ⟨_, exec_hbmRefreshWindow_due hn hp hdue, s.openHbmWindow_hbmWin n p, by simp⟩
  case idle => exact exec_hbmRefreshWindow_idle hn hp (hbmWindowDue_none ht hd)
  case hot => exact ⟨_, exec_hbmTempReport_hot hn h, s.noteRefRate_refNext n true, rfl⟩
  case cool => exact ⟨_, exec_hbmTempReport_cool hn h, s.noteRefRate_refNext n false, rfl⟩
  case takes =>
    refine ⟨_, exec_hbmRefRate_takes hn hf h0 ht, ?_⟩
    split
    next hb => exact ⟨hb, s.takeRefRate_refNext n, fun hne => absurd hb hne, fun m _ _ => rfl⟩
    next =>
      refine ⟨?_, by simp, fun _ => State.changeRefRate_recorded _ n b, fun m hm hne => ?_⟩
      · rw [State.changeRefRate_doubled _ n b hn, if_pos rfl]
      · rw [State.changeRefRate_doubled _ n b hm, if_neg hne, State.dreg_takeRefRate]
  case waits => exact exec_hbmRefRate_waits hn hf h
  case opens => exact ⟨_, (exec_ddrRefreshWindow s hc hs).trans (by rw [if_pos h]), aget_aput_self 0 _ _ _⟩
  case shut => rw [exec_ddrRefreshWindow s hc hs, if_neg h]

end Sys2Proof.Machine
end

