-- ==== Sys2Proof/Proofs/Recorder.lean ====
section
/-!
SUPPORT. Reads of the recorder's storage after a write of words, what the recorder makes of an event in each of its
states, and the settled statement on the events that leave the queue (R418 to R421).
-/

namespace Sys2Proof.Machine

/-! ### The storage after a write of words -/

theorem aget_putWords_outside (m : AMap Nat) {i j : Nat} (ws : List Nat) (h : j < i ∨ i + ws.length ≤ j) :
    aget 0 (putWords m i ws) j = aget 0 m j := by
  induction ws generalizing m i with
  | nil => rfl
  | cons w ws ih =>
    rw [List.length_cons] at h
    rw [putWords, ih _ (by omega), aget_aput_ne 0 m w (by omega)]

theorem aget_putWords_inside (m : AMap Nat) (i : Nat) {ws : List Nat} {n : Nat} (h : n < ws.length) :
    aget 0 (putWords m i ws) (i + n) = ws.getD n 0 := by
  induction ws generalizing m i n with
  | nil => simp at h
  | cons w ws ih =>
    cases n with
    | zero => rw [putWords, aget_putWords_outside _ ws (.inl (by omega))]; simp
    | succ n =>
      rw [putWords, Nat.add_comm n, ← Nat.add_assoc]
      simpa [Nat.add_comm 1 n] using ih (aput m i w) (i + 1) (by simpa using h)

theorem Ev.words_eq (e : Ev) : e.words =
    [e.word0 0, e.word1, e.tick % 2 ^ 32, (e.tick >>> 32) % 2 ^ 32, e.tick % 2 ^ 32, (e.tick >>> 32) % 2 ^ 32] ++
      e.payload.map (· % 2 ^ 32) := rfl

@[simp] theorem Ev.words_length (e : Ev) : e.words.length = 6 + e.payload.length := by
  rw [e.words_eq, List.length_append, List.length_map]
  rfl

theorem Ev.word0_zero (e : Ev) : e.word0 0 = e.code % 4096 + (6 + e.payload.length) * 2 ^ 12 := by
  have hshift := Nat.shiftLeft_eq (6 + e.payload.length) 12
  unfold Ev.word0
  rw [hshift, Nat.zero_mod, Nat.zero_shiftLeft, Nat.add_zero]

theorem Ev.words_payload (e : Ev) {i : Nat} (h : i < e.payload.length) :
    e.words.getD (6 + i) 0 = e.payload.getD i 0 % 2 ^ 32 := by
  rw [e.words_eq, List.getD_append_right _ _ _ _ (Nat.le_add_right 6 i)]
  simp [h]

/-! ### What the recorder makes of an event -/

/-- A record that is appended lies from the write pointer on, over nothing that was stored. -/
theorem Recorder.append_words_lt (r : Recorder) (ws : List Nat) {i : Nat} (h : i < r.wptr) :
    aget 0 (r.append ws).words i = aget 0 r.words i :=
  aget_putWords_outside _ _ (.inl h)

theorem Recorder.append_words_first (r : Recorder) (e : Ev) :
    aget 0 (r.append e.words).words r.wptr = e.code % 4096 + (6 + e.payload.length) * 2 ^ 12 :=
  (aget_putWords_inside r.words r.wptr (n := 0) (by simp)).trans e.word0_zero

theorem Recorder.append_words_payload (r : Recorder) (e : Ev) {i : Nat} (h : i < e.payload.length) :
    aget 0 (r.append e.words).words (r.wptr + 6 + i) = e.payload.getD i 0 % 2 ^ 32 := by
  rw [Nat.add_assoc]
  exact (aget_putWords_inside r.words r.wptr (by simp [h])).trans (e.words_payload h)

theorem Recorder.append_wptr (r : Recorder) (e : Ev) : (r.append e.words).wptr = r.wptr + (6 + e.payload.length) :=
  congrArg (r.wptr + ·) e.words_length

/-- The record of filling up (R420). -/
def evFilling (tick : Nat) : Ev := ⟨evErFull, none, none, [], tick⟩

/-- The last record with one repeat more and the tick of the last event (R419). -/
def Recorder.fold (r : Recorder) (tick : Nat) : Recorder :=
  { r with words := putWords (aput r.words r.last (r.word r.last + 2 ^ 18)) (r.last + 4) (lohi tick) }

/-- The recorder full, with the record of filling up at its end, and one event lost (R420). -/
def Recorder.fill (r : Recorder) (tick : Nat) : Recorder :=
  { r.append (evFilling tick).words with full := true, lost := satAdd 32 r.lost 1 }

theorem Recorder.fill_words_first (r : Recorder) (tick : Nat) :
    aget 0 (r.fill tick).words r.wptr = evErFull + 6 * 2 ^ 12 :=
  (r.append_words_first (evFilling tick)).trans (by simp [evFilling, evErFull])

theorem Recorder.take_eq (r : Recorder) (e : Ev) : r.take e =
    if r.frozen then { r with frozenCnt := satAdd 32 r.frozenCnt 1 }
    else if r.full then { r with lost := satAdd 32 r.lost 1 }
    else if r.folds e then r.fold e.tick
    else if r.wptr + (6 + e.payload.length) + 6 ≤ 2 ^ 20 then r.append e.words
    else r.fill e.tick := rfl

@[simp] theorem Recorder.take_q (r : Recorder) (e : Ev) : (r.take e).q = r.q := by
  rw [r.take_eq]
  split_ifs <;> rfl

section
variable (r : Recorder) (tick : Nat)

theorem Recorder.fold_repeats : aget 0 (r.fold tick).words r.last = r.word r.last + 2 ^ 18 :=
  (aget_putWords_outside _ _ (.inl (by omega))).trans (aget_aput_self ..)

theorem Recorder.fold_tick_low : aget 0 (r.fold tick).words (r.last + 4) = tick % 2 ^ 32 :=
  aget_putWords_inside _ (r.last + 4) (ws := lohi tick) (n := 0) (by simp [lohi])

theorem Recorder.fold_tick_high : aget 0 (r.fold tick).words (r.last + 5) = (tick >>> 32) % 2 ^ 32 :=
  aget_putWords_inside _ (r.last + 4) (ws := lohi tick) (n := 1) (by simp [lohi])

theorem Recorder.fold_words_ne {i : Nat} (h0 : i ≠ r.last) (h4 : i ≠ r.last + 4) (h5 : i ≠ r.last + 5) :
    aget 0 (r.fold tick).words i = aget 0 r.words i := by
  have hout : i < r.last + 4 ∨ r.last + 4 + (lohi tick).length ≤ i := by
    simp only [lohi, List.length_cons, List.length_nil]
    omega
  exact (aget_putWords_outside _ _ hout).trans (aget_aput_ne 0 _ _ h0)

end

theorem exec_recorderEvent {s : State} {e : Ev} {q : List Ev} (h : s.er.q = e :: q) :
    exec .recorderEvent s = .next { s with er := ({ s.er with q } : Recorder).take e } := by
  change execRecorderEvent s = _
  simp only [execRecorderEvent, h]

/-! ### The settled statement -/

/-- Settles O53: by the recorder's state, its branches in the order in which it tries them. -/
theorem recorderEvent : Obligations.recorder_event := by
  unfold Obligations.recorder_event
  intro s e q hq
  refine ⟨_, exec_recorderEvent hq, Recorder.take_q _ e, rfl, rfl, ?_⟩
  have hfolds : ({ s.er with q } : Recorder).folds e = s.er.folds e := rfl
  rw [Recorder.take_eq, hfolds]
  by_cases hz : s.er.frozen = true
  · rw [if_pos hz, if_pos hz]
  rw [if_neg hz, if_neg hz]
  by_cases hf : s.er.full = true
  · rw [if_pos hf, if_pos hf]
  rw [if_neg hf, if_neg hf]
  by_cases hd : s.er.folds e = true
  · rw [if_pos hd, if_pos hd]
    exact ⟨rfl, rfl, Recorder.fold_repeats _ _, Recorder.fold_tick_low _ _, Recorder.fold_tick_high _ _,
      fun _ => Recorder.fold_words_ne _ _⟩
  rw [if_neg hd, if_neg hd]
  by_cases hn : s.er.wptr + (6 + e.payload.length) + 6 ≤ 2 ^ 20
  · rw [if_pos hn, if_pos hn]
    exact ⟨Recorder.append_wptr _ e, rfl, Bool.eq_false_iff.mpr hf, rfl, fun _ => Recorder.append_words_lt _ _,
      Recorder.append_words_first _ e, fun _ => Recorder.append_words_payload _ e⟩
  · rw [if_neg hn, if_neg hn]
    exact ⟨rfl, rfl, rfl, Recorder.fill_words_first _ _, fun _ => Recorder.append_words_lt _ _⟩

end Sys2Proof.Machine
end

