-- ==== Sys2Proof/Proofs/ControlPort.lean ====
section
/-!
SUPPORT. What a frame at the control port leads to at each check that it meets, what a request that is not legal or not
well-formed leaves unchanged, and the settled statement on those checks (R398, R405 to R408, R415).
-/

namespace Sys2Proof.Machine

/-! ### Rows -/

/-- Every command of Table 18-3 is a frame at the port, with its CMD. -/
theorem exec_frameRow {row : (Frame → Instr) × Nat} (h : row ∈ frameRows) (s : State) (f : Frame) :
    exec (row.1 f) s = .next (s.frame row.2 f) := by
  simp only [frameRows, List.mem_cons, List.not_mem_nil, or_false] at h
  rcases h with rfl | rfl | rfl | rfl | rfl | rfl | rfl | rfl | rfl | rfl | rfl | rfl | rfl | rfl <;> rfl

/-- CMD is one byte. -/
theorem frameRow_cmd_lt {row : (Frame → Instr) × Nat} (h : row ∈ frameRows) : row.2 < 256 := by
  have hall : ∀ cmd ∈ frameRows.map (·.2), cmd < 256 := by decide
  exact hall _ (List.mem_map_of_mem h)

theorem exec_illegalCommand (cmd : Nat) (f : Frame) (s : State) :
    exec (.illegalCommand cmd f) s = .next (s.frame (cmd % 256) f) := rfl

/-! ### The state in which a request waits -/

section
variable (s : State) (cmd : Nat) (f : Frame)

/-- An accepted frame changes at most the session counter. -/
theorem State.useCounter_eq : s.useCounter f = { s with sec := (s.useCounter f).sec } := by
  unfold State.useCounter
  split <;> rfl

@[simp] theorem State.useCounter_ctl : (s.useCounter f).ctl = s.ctl := by rw [s.useCounter_eq f]

@[simp] theorem State.useCounter_dregs : (s.useCounter f).dregs = s.dregs := by rw [s.useCounter_eq f]

@[simp] theorem State.asks_ctl : (s.asks cmd f).ctl = { s.ctl with q := [(cmd, f)] } := by
  simp [State.asks]

theorem State.asks_q : (s.asks cmd f).ctl.q = [(cmd, f)] := by rw [State.asks_ctl]

theorem State.asks_taken {s : State} (hq : s.ctl.q = []) :
    ({ s.asks cmd f with ctl := { (s.asks cmd f).ctl with q := [] } } : State) = s.useCounter f := by
  rw [State.asks_ctl, State.asks, s.useCounter_eq f]
  simp only [← hq]

/-- Whether a request is legal and well-formed does not depend on its session, nor on the requests that wait. -/
theorem State.asks_valid : ((s.asks cmd f).legal cmd f.first && (s.asks cmd f).formed cmd f) =
    (s.legal cmd f.first && s.formed cmd f) := by
  simp only [State.legal, State.portOpen, State.formed, State.asks_ctl]

theorem State.useCounter_valid : ((s.useCounter f).legal cmd f.first && (s.useCounter f).formed cmd f) =
    (s.legal cmd f.first && s.formed cmd f) := by
  simp only [State.legal, State.portOpen, State.formed, State.useCounter_ctl]

end

section
variable {s : State} {cmd : Nat} {f : Frame}

theorem State.portIdle_iff : s.portIdle = true ↔ s.ctl.q = [] ∧ s.ctl.sp = none ∧ s.ctl.busy = none := by
  simp [State.portIdle, and_assoc]

/-- At an idle port only a LOAD can have to wait, for the end of a march (R384). -/
theorem State.asks_stillHeld_of_ne (hi : s.portIdle = true) (hc : cmd ≠ cLoad) :
    (s.asks cmd f).stillHeld cmd = false := by
  obtain ⟨-, hsp, hbusy⟩ := State.portIdle_iff.mp hi
  simp [State.stillHeld, hsp, hbusy, hc]

/-! ### The checks of a frame -/

theorem State.hears_iff : s.hears f = true ↔ s.clocked = true ∧ s.ctl.lanes = 15 ∧ f.crcOk = true := by
  simp [State.hears, and_assoc]

theorem State.frame_untrained (h : s.clocked = false ∨ s.ctl.lanes ≠ 15) : s.frame cmd f = s := by
  have hout : (!s.clocked || s.ctl.lanes != 15) = true := by simpa using h
  rw [State.frame, if_pos hout]

theorem State.frame_badCrc (hc : s.clocked = true) (hl : s.ctl.lanes = 15) (hcrc : f.crcOk = false) :
    s.frame cmd f = s.bumpD 0x600008 := by
  simp [State.frame, hc, hl, hcrc]

section
variable (hh : s.hears f = true)
include hh

theorem State.frame_badSession (hs : s.sessionOk cmd f = false) :
    s.frame cmd f = (s.bumpD 0x600008).bumpD 0x500010 := by
  obtain ⟨hc, hl, hcrc⟩ := State.hears_iff.mp hh
  simp [State.frame, hc, hl, hcrc, hs, rAuthFail]

variable (hs : s.sessionOk cmd f = true)
include hs

theorem State.frame_accepted : s.frame cmd f =
    let u := s.useCounter f
    if u.ctl.q.isEmpty then (s.asks cmd f).serveHeld 1
    else if 32 ≤ u.ctl.q.length then u.bumpD 0x60000C
    else { u with ctl := { u.ctl with q := u.ctl.q ++ [(cmd, f)] } } := by
  obtain ⟨hc, hl, hcrc⟩ := State.hears_iff.mp hh
  rw [State.frame, if_neg (by simp [hc, hl]), if_neg (by simp [hcrc]), if_neg (by simp [hs])]
  rfl

/-- Behind waiting requests an accepted frame waits, or is one too many. -/
theorem State.frame_behind (hq : s.ctl.q ≠ []) : s.frame cmd f =
    if s.ctl.q.length < 32 then
      { s.useCounter f with ctl := { (s.useCounter f).ctl with q := s.ctl.q ++ [(cmd, f)] } }
    else (s.useCounter f).bumpD 0x60000C := by
  rw [State.frame_accepted hh hs]
  simp only [State.useCounter_ctl, List.isEmpty_iff, if_neg hq, ← not_lt, ite_not]

theorem State.frame_first (hq : s.ctl.q = []) : s.frame cmd f = (s.asks cmd f).serveHeld 1 :=
  (State.frame_accepted hh hs).trans (if_pos (by simp [hq]))

end

/-! ### The first waiting request -/

theorem State.serveHeld_held {q : List (Nat × Frame)} (n : Nat) (hq : s.ctl.q = (cmd, f) :: q)
    (hw : s.stillHeld cmd = true) : s.serveHeld n = s := by
  cases n with
  | zero => rfl
  | succ n =>
    rw [State.serveHeld, hq]
    exact if_pos hw

section
variable {q : List (Nat × Frame)} (n : Nat) (hq : s.ctl.q = (cmd, f) :: q) (hw : s.stillHeld cmd = false)
include hq hw

theorem State.serveHeld_serves (ha : s.beginAccess cmd f = none) : s.serveHeld (n + 1) =
    let t := ({ s with ctl := { s.ctl with q } } : State).serve cmd f
    ({ t with ctl := { t.ctl with busy := none, sp := none } } : State).serveHeld n := by
  have hbegin : (if s.ctl.sp.isSome || s.ctl.busy.isSome then none else s.beginAccess cmd f) = none := by
    simp [ha]
  rw [State.serveHeld, hq]
  simp only [hw, hbegin, Bool.false_eq_true, if_false]

theorem State.serveHeld_begins {t : State} (hsp : s.ctl.sp = none) (hbusy : s.ctl.busy = none)
    (ha : s.beginAccess cmd f = some t) : s.serveHeld (n + 1) = t := by
  have hbegin : (if s.ctl.sp.isSome || s.ctl.busy.isSome then none else s.beginAccess cmd f) = some t := by
    simp [hsp, hbusy, ha]
  rw [State.serveHeld, hq]
  simp only [hw, hbegin, Bool.false_eq_true, if_false]

end

/-! ### A request that is ignored -/

/-- The payload of the record of an ignored command (R415). -/
def State.ignoredWord (s : State) (cmd : Nat) (f : Frame) : Nat :=
  cmd % 256 + (f.tag % 65536) <<< 8 + s.ctl.st <<< 24

theorem State.ignoredWord_of_lt (s : State) {cmd : Nat} (f : Frame) (h : cmd < 256) :
    s.ignoredWord cmd f = cmd + (f.tag % 65536) <<< 8 + s.ctl.st <<< 24 :=
  congrArg (· + (f.tag % 65536) <<< 8 + s.ctl.st <<< 24) (Nat.mod_eq_of_lt h)

theorem State.counted_ignoredWord (s : State) (cmd : Nat) (f : Frame) :
    (s.counted f).ignoredWord cmd f = s.ignoredWord cmd f :=
  congrArg (fun k : Ctl => cmd % 256 + (f.tag % 65536) <<< 8 + k.st <<< 24) (s.useCounter_ctl f)

/-- A request that is ignored is counted as served and as ignored, recorded, and answered. -/
def State.ignored (s : State) (cmd : Nat) (f : Frame) : State :=
  (((s.counted f).bumpD 0x600004).emit evCmdIgnored none none [s.ignoredWord cmd f]).reply cmd f ⟨2, 0, 0, []⟩

theorem State.serve_invalid (hv : (s.legal cmd f.first && s.formed cmd f) = false) :
    (s.useCounter f).serve cmd f = s.ignored cmd f := by
  have hv' : ¬ ((s.counted f).legal cmd f.first && (s.counted f).formed cmd f) = true :=
    Bool.eq_false_iff.mp ((s.useCounter_valid cmd f).trans hv)
  have hserve : (s.useCounter f).serve cmd f = (((s.counted f).bumpD 0x600004).emit evCmdIgnored none none
    [(s.counted f).ignoredWord cmd f]).reply cmd f ⟨2, 0, 0, []⟩ := if_neg hv'
  rw [hserve, State.counted_ignoredWord, State.ignored]

section
variable (s cmd f)

/-- It leaves a reply and an event; beside them only counters change: the session's and those of the port. -/
theorem State.ignored_eq : s.ignored cmd f =
    { s with out := s.out ++ [replyOf cmd f 2 0 0 []], dregs := (s.ignored cmd f).dregs,
             er := { s.er with q := s.er.q ++ [⟨evCmdIgnored, none, none, [s.ignoredWord cmd f], s.scr.now⟩] },
             sec := (s.ignored cmd f).sec } := by
  unfold State.ignored State.counted
  rw [s.useCounter_eq f]
  rfl

theorem State.ignored_out : (s.ignored cmd f).out = s.out ++ [replyOf cmd f 2 0 0 []] := by rw [s.ignored_eq]

theorem State.ignored_ctl : (s.ignored cmd f).ctl = s.ctl := by rw [s.ignored_eq]

theorem State.ignored_recorded :
    ⟨evCmdIgnored, none, none, [s.ignoredWord cmd f], s.scr.now⟩ ∈ (s.ignored cmd f).er.q := by
  rw [s.ignored_eq]
  exact List.mem_append_right _ (List.mem_singleton_self _)

theorem State.ignored_counts : (s.ignored cmd f).dreg 0x600004 = satAdd 32 (s.dreg 0x600004) 1 := by
  have hreply : (s.ignored cmd f).dreg 0x600004 = ((s.counted f).bumpD 0x600004).dreg 0x600004 :=
    State.dreg_bumpD_ne _ (by decide)
  have hcounted : (s.counted f).dreg 0x600004 = s.dreg 0x600004 := by
    rw [State.counted, State.dreg_bumpD_ne _ (by decide), State.dreg, State.useCounter_dregs, State.dreg]
  rw [hreply, State.dreg_bumpD_self, hcounted]

end

theorem State.clearAccess_eq_self (hbusy : s.ctl.busy = none) (hsp : s.ctl.sp = none) :
    ({ s with ctl := { s.ctl with busy := none, sp := none } } : State) = s := by
  calc ({ s with ctl := { s.ctl with busy := none, sp := none } } : State)
      = { s with ctl := { s.ctl with busy := s.ctl.busy, sp := s.ctl.sp } } := by rw [hbusy, hsp]
    _ = s := rfl

theorem State.frame_ignored (hh : s.hears f = true) (hs : s.sessionOk cmd f = true) (hi : s.portIdle = true)
    (hw : (s.asks cmd f).stillHeld cmd = false) (hv : (s.legal cmd f.first && s.formed cmd f) = false) :
    s.frame cmd f = s.ignored cmd f := by
  obtain ⟨hq, hsp, hbusy⟩ := State.portIdle_iff.mp hi
  have ha : (s.asks cmd f).beginAccess cmd f = none := by
    rw [State.beginAccess, State.asks_valid, hv]
    rfl
  rw [State.frame_first hh hs hq, State.serveHeld_serves 0 (s.asks_q cmd f) hw ha, State.asks_taken cmd f hq,
    State.serve_invalid hv]
  have hctl := s.ignored_ctl cmd f
  exact State.clearAccess_eq_self (by rw [hctl, hbusy]) (by rw [hctl, hsp])

end

/-! ### Legal states (Table 18-6) -/

section
variable (s : State) (first : Bool)

theorem State.legal_query : ∀ cmd ∈ [0x01, 0x09, 0x0D], s.legal cmd first = true := by
  simp [State.legal, cIdent, cStatus, cReadrec]

theorem State.legal_open : ∀ cmd ∈ [0x02, 0x03, 0x04, 0x0A, 0x0B, 0x0C, 0x0E], s.legal cmd first = s.portOpen := by
  simp [State.legal, cIdent, cStatus, cReadrec, cStop, cHalt, cStart, cLoad]

theorem State.legal_job : ∀ cmd ∈ [0x07, 0x08], s.legal cmd first = true ↔ s.ctl.st = stRunning := by
  simp [State.legal, cIdent, cStatus, cReadrec, cStop, cHalt]

theorem State.legal_start : s.legal 0x06 first = true ↔ s.ctl.st = stLoaded ∧ s.ctl.img = 2 := by
  simp [State.legal, cIdent, cStatus, cReadrec, cStop, cHalt, cStart]

theorem State.legal_load_next : s.legal 0x05 false = true ↔ s.ctl.st = stLoaded ∧ s.ctl.img = 1 := by
  simp [State.legal, cIdent, cStatus, cReadrec, cStop, cHalt, cStart, cLoad]

theorem State.legal_load_first : s.legal 0x05 true = true ↔
    s.ctl.st = stIdle ∨ s.ctl.st = stLoaded ∨ s.ctl.st = stHalted ∨ s.ctl.st = stFaulted ∧ s.ctl.bootFail = false := by
  simp [State.legal, cIdent, cStatus, cReadrec, cStop, cHalt, cStart, cLoad, or_assoc]

end

/-- The port is open in every state from IDLE on, but for a FAULTED device whose boot failed. -/
theorem State.portOpen_iff {s : State} (hst : s.ctl.st ≤ stFaulted)
    (hb : s.ctl.st < stFaulted → s.ctl.bootFail = false) : s.portOpen = true ↔
      s.ctl.st = stIdle ∨ s.ctl.st = stLoaded ∨ s.ctl.st = stRunning ∨ s.ctl.st = stHalted ∨
        s.ctl.st = stFaulted ∧ s.ctl.bootFail = false := by
  simp only [State.portOpen, Bool.and_eq_true, decide_eq_true_eq, Bool.not_eq_true']
  constructor
  · rintro ⟨h, hb'⟩
    have hcases : s.ctl.st = stIdle ∨ s.ctl.st = stLoaded ∨ s.ctl.st = stRunning ∨ s.ctl.st = stHalted ∨
        s.ctl.st = stFaulted := by
      simp only [stIdle, stLoaded, stRunning, stHalted, stFaulted] at *
      omega
    simpa [hb'] using hcases
  · have hbelow : ∀ n, 2 ≤ n → n < stFaulted → s.ctl.st = n → 2 ≤ s.ctl.st ∧ s.ctl.bootFail = false := by
      rintro n h2 hn rfl
      exact ⟨h2, hb hn⟩
    rintro (h | h | h | h | ⟨h, hb'⟩)
    · exact hbelow stIdle (by decide) (by decide) h
    · exact hbelow stLoaded (by decide) (by decide) h
    · exact hbelow stRunning (by decide) (by decide) h
    · exact hbelow stHalted (by decide) (by decide) h
    · exact ⟨by rw [h]; decide, hb'⟩

/-- CMD 0 and those above UNFREEZE are of no command (R408). -/
theorem State.formed_reserved (s : State) {cmd : Nat} (f : Frame) (h : cmd = 0 ∨ 0x0E < cmd) :
    s.formed cmd f = false := by
  have hne : cmd ≠ cAttest ∧ cmd ≠ cWrite ∧ cmd ≠ cLoad := by
    simp only [cAttest, cWrite, cLoad]
    omega
  have hres : (cmd == 0 || decide (cUnfreeze < cmd)) = true := by
    rwa [Bool.or_eq_true, beq_iff_eq, decide_eq_true_eq]
  simp [State.formed, hne, Bool.or_assoc, hres]

/-! ### The settled statement -/

/-- Settles O21: a frame by the checks in the order in which it meets them, the legal states by the groups of Table 18-6,
and a reserved CMD as one that no command has. -/
theorem controlPortChecks : Obligations.control_port_checks := by
  unfold Obligations.control_port_checks
  refine ⟨fun row hrow s f => ?frames, fun s first => ?states, fun s cmd f hh hs hi hcmd => ?reserved⟩
  case frames =>
    rw [exec_frameRow hrow]
    refine ⟨fun h => congrArg _ (State.frame_untrained h),
      fun hc hl hcrc => congrArg _ (State.frame_badCrc hc hl hcrc),
      fun hh hs => congrArg _ (State.frame_badSession hh hs),
      fun hh hs => ⟨fun hq => ?behind, fun hq hw => ?held, fun t hi hw ha => ?begins⟩, fun hh hs hi hw hv => ?ignored⟩
    case behind => rw [State.frame_behind hh hs hq]
    case held => rw [State.frame_first hh hs hq, State.serveHeld_held 1 (s.asks_q row.2 f) hw]
    case begins =>
      obtain ⟨hq, hsp, hbusy⟩ := State.portIdle_iff.mp hi
      rw [State.frame_first hh hs hq, State.serveHeld_begins 0 (s.asks_q row.2 f) hw (by simpa using hsp)
        (by simpa using hbusy) ha]
    case ignored =>
      rw [State.frame_ignored hh hs hi hw hv]
      refine ⟨_, rfl, s.ignored_out row.2 f, s.ignored_ctl row.2 f, ?_, s.ignored_counts row.2 f,
        _, s.ignored_recorded row.2 f, rfl, ?_⟩
      · rw [s.ignored_eq]
      · exact congrArg (fun n => [n]) (s.ignoredWord_of_lt f (frameRow_cmd_lt hrow))
  case states =>
    refine ⟨s.legal_query first, fun cmd hc hst hb => ?_, s.legal_load_first, s.legal_load_next, s.legal_start first,
      s.legal_job first⟩
    rw [s.legal_open first cmd hc]
    exact State.portOpen_iff hst hb
  case reserved =>
    have hload : cmd % 256 ≠ cLoad := by
      simp only [cLoad]
      omega
    have hw : (s.asks (cmd % 256) f).stillHeld (cmd % 256) = false := State.asks_stillHeld_of_ne hi hload
    have hv : (s.legal (cmd % 256) f.first && s.formed (cmd % 256) f) = false := by
      rw [s.formed_reserved f hcmd, Bool.and_false]
    rw [exec_illegalCommand, State.frame_ignored hh hs hi hw hv]
    refine ⟨_, rfl, s.ignored_out _ f, s.ignored_ctl _ f, ?_, ?_, ?_⟩
    all_goals rw [s.ignored_eq]

end Sys2Proof.Machine
end
